-- ==== Sys2Proof/Word.lean ====
section
/-! DEFINITION. The two data sizes of the TaC (20_memory.md R51): 16-bit words, which are also addresses and
register contents, and 8-bit bytes, which exist in memory and in device registers only. -/

namespace Sys2Proof

/-- A 16-bit datum, register content or address (00_scope.md R6). -/
abbrev Word := BitVec 16

/-- An 8-bit datum of memory (20_memory.md R51). -/
abbrev Byte := BitVec 8

end Sys2Proof
end

