-- ==== Sys2Proof/Config.lean ====
section
/-! DEFINITION. What an implementation fixes and what the spec leaves free. The types of the named parameters of
00_scope.md R7 stand here and their values in Sys2Proof/Machine/Settings.lean. The constants below have no body, so
no proof can see what they are and a statement about them holds for every value. -/

namespace Sys2Proof

/-- `BYTE_ORDER` (92 D1): which byte of a 16-bit datum lies at the even address. -/
inductive ByteOrder where
  | big
  | little
  deriving DecidableEq, Repr

/-- `MISALIGNED_POLICY` (92 D2, D3): a 16-bit access at an odd address stops the model or raises
MemoryProtectionViolation with cause badAddr. -/
inductive MisalignedPolicy where
  | fault
  | raise
  deriving DecidableEq, Repr

/-- `ILLEGAL_POLICY` (92 D27): an unassigned encoding stops the model or enters through slot FFFCh. -/
inductive IllegalPolicy where
  | fault
  | raise
  deriving DecidableEq, Repr

/-- `INT_PRIORITY` (92 D13): the lowest pending source, or any one of them. -/
inductive IntPriority where
  | lowest
  | any
  deriving DecidableEq, Repr

/-- `LD_FLAG_POLICY` (92 D29): what LD does to V, C, S, Z. -/
inductive LdFlagPolicy where
  | unchanged
  | draw
  deriving DecidableEq, Repr

/-- `ZERODIV_SAVED_PC` and `FAULT_SAVED_PC` (92 D12): the PC an exception pushes. -/
inductive SavedPcPolicy where
  | faulting
  | next
  deriving DecidableEq, Repr

/-- `IPL_IMAGE` (20_memory.md R53): the 8 KiB of the IPL ROM, by offset from E000h. Not in the source. -/
opaque Config.iplImage : BitVec 13 → Byte

/-- `TIMER_TICK` (60_exceptions.md R252): the period of one timer count. No rule uses it. -/
opaque Config.timerTick : Nat

/-- The `n`-th free bit (00_scope.md R10, `draw`). -/
opaque Config.freeBit : Nat → Bool

/-- The `n`-th free word: what a device answers to an IN (20_memory.md R60). -/
opaque Config.freeWord : Nat → Word

/-- The `n`-th free choice among pending requests, under `INT_PRIORITY = any` (60_exceptions.md R217). -/
opaque Config.freeChoice : Nat → Nat

/-- The quotient 8000h / FFFFh under `DIV_SIGNED = true`, a draw (41_arithmetic_logic.md R142), as a function
of the operands. -/
opaque Config.signedQuotientCorner : Word → Word → Word

end Sys2Proof
end

