-- ==== Sys2Proof/Syntax.lean ====
section
/-! DEFINITION. The instructions of the TaC: one constructor per mnemonic of spec/opcode_table.json, whose operand
argument ranges over exactly the forms the table gives that mnemonic (30_encoding.md R97, R98). So a row of the table
is a constructor taken at one form, and no form outside the table can be written. -/

namespace Sys2Proof

/-- The sixteen register numbers (10_state.md R22): G0..G11, then C = FP, D = SP (SSP or USP by FLAG.P), E = USP,
F = FLAG. -/
inductive Reg where
  | g (n : Fin 12)
  | fp
  | sp
  | usp
  | flag
  deriving DecidableEq, Repr

/-- The eight operand forms with their operands (30_encoding.md R86 to R95). `d4` and `i4` are the encoded fields. -/
inductive Operand where
  /-- form 0, Direct: the word at `dsp` -/
  | direct (dsp : Word)
  /-- form 1, Indexed: the word at `dsp + Rx` -/
  | indexed (dsp : Word) (rx : Reg)
  /-- form 2, Immediate -/
  | imm (v : Word)
  /-- form 3, FP relative: the word at `FP + 2 * s(D4)` -/
  | fpRel (d4 : BitVec 4)
  /-- form 4, Register -/
  | reg (rs : Reg)
  /-- form 5, 4-bit signed immediate -/
  | imm4 (i4 : BitVec 4)
  /-- form 6, Register indirect: the word at `Rx` -/
  | indirect (rx : Reg)
  /-- form 7, Byte register indirect: the byte at `Rx`, zero-extended -/
  | byteIndirect (rx : Reg)
  deriving DecidableEq, Repr

/-- The five forms that ST admits: those with a memory destination (40_nop_load_store.md R122). -/
inductive StoreOperand where
  | direct (dsp : Word)
  | indexed (dsp : Word) (rx : Reg)
  | fpRel (d4 : BitVec 4)
  | indirect (rx : Reg)
  | byteIndirect (rx : Reg)
  deriving DecidableEq, Repr

/-- The two forms of jumps and CALL; the operand is the address itself (43_jump_call.md R160, R176). -/
inductive Target where
  | direct (dsp : Word)
  | indexed (dsp : Word) (rx : Reg)
  deriving DecidableEq, Repr

/-- The two forms of IN and OUT; the operand is an I/O address (44_io_stack.md R190). -/
inductive PortOperand where
  | direct (port : Word)
  | indirect (rx : Reg)
  deriving DecidableEq, Repr

/-- The instructions, in the table's order. -/
inductive Instr where
  | no
  | ld (rd : Reg) (src : Operand)
  | st (rd : Reg) (dst : StoreOperand)
  | add (rd : Reg) (src : Operand)
  | sub (rd : Reg) (src : Operand)
  | cmp (rd : Reg) (src : Operand)
  | and (rd : Reg) (src : Operand)
  | or (rd : Reg) (src : Operand)
  | xor (rd : Reg) (src : Operand)
  | adds (rd : Reg) (src : Operand)
  | mul (rd : Reg) (src : Operand)
  | div (rd : Reg) (src : Operand)
  | mod (rd : Reg) (src : Operand)
  | shla (rd : Reg) (src : Operand)
  | shll (rd : Reg) (src : Operand)
  | shra (rd : Reg) (src : Operand)
  | shrl (rd : Reg) (src : Operand)
  | jz (tgt : Target)
  | jc (tgt : Target)
  | jm (tgt : Target)
  | jo (tgt : Target)
  | jgt (tgt : Target)
  | jge (tgt : Target)
  | jle (tgt : Target)
  | jlt (tgt : Target)
  | jnz (tgt : Target)
  | jnc (tgt : Target)
  | jnm (tgt : Target)
  | jno (tgt : Target)
  | jhi (tgt : Target)
  | jls (tgt : Target)
  | jmp (tgt : Target)
  | call (tgt : Target)
  | inp (rd : Reg) (port : PortOperand)
  | out (rd : Reg) (port : PortOperand)
  | push (rd : Reg)
  | pop (rd : Reg)
  | ret
  | reti
  | svc
  | halt
  deriving DecidableEq, Repr

end Sys2Proof
end

