-- ==== Sys2Proof/Machine/Settings.lean ====
section
/-! DEFINITION. The values of the spec's named parameters (00_scope.md R7, 92_eei_decisions.md). Every setting has the
spec's default but `misaligned`, which has the spec's alternative (log 8). The machine implements every value of each
parameter, so that a change here is the whole change. -/

namespace Sys2Proof.Setting

/-- `BYTE_ORDER`, default big (92 D1). -/
def byteOrder : ByteOrder := .big

/-- `MISALIGNED_POLICY` (92 D2, D3): the alternative `raise`, an effect the spec describes (60_exceptions.md R222),
and not the default, which stops the model. DESIGN CHOICE, unsafe (log 8). -/
def misaligned : MisalignedPolicy := .raise

/-- `INT_PRIORITY`, default the lowest vector address (92 D13). -/
def intPriority : IntPriority := .lowest

/-- `PRIVILEGED_SET`, a set of instructions, default {IN, OUT, HALT} (92 D15; log 23). -/
def privileged (i : Instr) : Bool :=
  match i with
  | .inp _ _ => true
  | .out _ _ => true
  | .halt => true
  | _ => false

/-- `SHIFT_COUNT_MASK`, default 000Fh; the alternative `none` refuses operands above 15 (92 D20; log 27). -/
def shiftCountMask : Option Word := some 0x000F#16

/-- `DIV_SIGNED`, default unsigned (92 D23). -/
def divSigned : Bool := false

/-- `ZERODIV_SAVED_PC`, default the address of the DIV or MOD (92 D12). -/
def zeroDivSavedPc : SavedPcPolicy := .faulting

/-- `FAULT_SAVED_PC`, default the address of the faulting instruction (92 D12). -/
def faultSavedPc : SavedPcPolicy := .faulting

/-- `ILLEGAL_POLICY`, default a model fault (92 D27). -/
def illegal : IllegalPolicy := .fault

/-- `LD_FLAG_POLICY`, default unchanged (92 D29). -/
def ldFlags : LdFlagPolicy := .unchanged

/-- `RESET_PC`, default the first address of the IPL ROM (92 D30). -/
def resetPc : Word := 0xE000#16

/-- `RESET_FLAG`, default P = 1 and all else 0 (92 D30). -/
def resetFlag : Word := 0x0040#16

end Sys2Proof.Setting
end

