-- ==== Sys2Proof/Machine/Bytes.lean ====
section
/-! DEFINITION. Byte order, said once (20_memory.md R54): how the two bytes at an even address and the one after it
make a 16-bit datum, for data and for instructions alike. -/

namespace Sys2Proof

/-- The 16-bit datum of the byte at the even address and the byte after it (20_memory.md R54). -/
def wordOfBytes (b0 b1 : Byte) : Word :=
  match Setting.byteOrder with
  | .big => b0 ++ b1
  | .little => b1 ++ b0

/-- The byte of a datum that lies at its even address (20_memory.md R57). -/
def firstByte (w : Word) : Byte :=
  match Setting.byteOrder with
  | .big => w.extractLsb' 8 8
  | .little => w.extractLsb' 0 8

/-- The byte of a datum that lies at the odd address. -/
def secondByte (w : Word) : Byte :=
  match Setting.byteOrder with
  | .big => w.extractLsb' 0 8
  | .little => w.extractLsb' 8 8

/-- Whether an address is odd (20_memory.md R61). -/
def isOdd (a : Word) : Bool := decide (a.toNat % 2 = 1)

end Sys2Proof
end

