-- ==== Sys2Proof/Machine/Memory.lean ====
section
/-! DEFINITION. Main memory as a list of cells in one canonical form: addresses strictly rising, each below 2^16. A
byte nothing has written has no value (20_memory.md R56, 92 D36; log 4), so no listed cell equals an unlisted one. -/

namespace Sys2Proof.Machine

/-- The written bytes of main memory, by rising address. -/
abbrev Memory := List Host.Cell

/-- What an unlisted address reads as: no value (20_memory.md R56). -/
def Memory.unlisted : Option Byte := none

/-- The byte at an address, if something has written it. -/
def Memory.read? (m : Memory) (a : Nat) : Option Byte :=
  match m with
  | [] => Memory.unlisted
  | (k, v) :: rest => if a = k then some v else Memory.read? rest a

/-- One byte written, the form kept. -/
def Memory.write (m : Memory) (a : Nat) (b : Byte) : Memory :=
  match m with
  | [] => [(a, b)]
  | (k, v) :: rest =>
    if a < k then (a, b) :: (k, v) :: rest
    else if a = k then (a, b) :: rest
    else (k, v) :: Memory.write rest a b

/-- The canonical form. -/
def Memory.wf (m : Memory) : Bool :=
  match m with
  | [] => true
  | (k, _) :: rest => decide (k < 65536) && rest.all (fun c => decide (k < c.1)) && Memory.wf rest

end Sys2Proof.Machine
end

