-- ==== Sys2Proof/Machine/Psw.lean ====
section
/-! DEFINITION. The flag register (10_state.md R27 to R29). Only eight bits of it exist, so it is eight named bits;
as register number 15 it is read and written as a word through `toWord` and `write`. -/

namespace Sys2Proof.Machine

/-- The bits of FLAG, 10_state.md R27. -/
structure Flag where
  /-- bit 7, interrupt enable -/
  e : Bool
  /-- bit 6, privileged mode -/
  p : Bool
  /-- bit 5, I/O privilege mode -/
  i : Bool
  /-- bit 4, user defined -/
  u : Bool
  /-- bit 3, overflow -/
  v : Bool
  /-- bit 2, carry -/
  c : Bool
  /-- bit 1, sign -/
  s : Bool
  /-- bit 0, zero -/
  z : Bool
  deriving DecidableEq, Repr

/-- FLAG read as a word: zeros above EPIUVCSZ (10_state.md R24). -/
def Flag.toWord (f : Flag) : Word :=
  0#8 ++ BitVec.ofBool f.e ++ BitVec.ofBool f.p ++ BitVec.ofBool f.i ++ BitVec.ofBool f.u
    ++ BitVec.ofBool f.v ++ BitVec.ofBool f.c ++ BitVec.ofBool f.s ++ BitVec.ofBool f.z

/-- All eight bits taken from a word; its upper byte is discarded (10_state.md R29, 92 D17). -/
def Flag.ofWord (w : Word) : Flag where
  e := w.getLsbD 7
  p := w.getLsbD 6
  i := w.getLsbD 5
  u := w.getLsbD 4
  v := w.getLsbD 3
  c := w.getLsbD 2
  s := w.getLsbD 1
  z := w.getLsbD 0

/-- `FlagWrite(v)` (10_state.md R29): in user mode E, P and I keep their values. -/
def Flag.write (f : Flag) (w : Word) : Flag :=
  if f.p then Flag.ofWord w
  else { Flag.ofWord w with e := f.e, p := f.p, i := f.i }

/-- The four condition flags written, the other four kept (41_arithmetic_logic.md R130). -/
def Flag.setVcsz (f : Flag) (v c s z : Bool) : Flag :=
  { f with v := v, c := c, s := s, z := z }

/-- What a trap entry does to FLAG: privileged, interrupts disabled, the rest kept (60_exceptions.md R225). -/
def Flag.enterTrap (f : Flag) : Flag :=
  { f with p := true, e := false }

end Sys2Proof.Machine
end

