-- ==== Sys2Proof/Machine/State.lean ====
section
/-! DEFINITION. The state of the machine, plain data, and why a step can stop. INVENTORY.md lists every field with the
rule that names it; 10_state.md R20 to R36 and 60_exceptions.md R250 are the main ones. -/

namespace Sys2Proof.Machine

/-! ### The MMU's registers (20_memory.md R63 to R65) -/

/-- A TLB entry; bits 14 and 13 of its lower word are undefined and have no state (20_memory.md R64). -/
structure TlbEntry where
  page : BitVec 8
  valid : Bool
  reference : Bool
  dirty : Bool
  canRead : Bool
  canWrite : Bool
  canExecute : Bool
  frame : BitVec 8
  deriving DecidableEq, Repr

/-- The MMU as far as the spec gives it: its registers, no translation (20_memory.md R66). -/
structure Mmu where
  /-- `mmu_enabled`, I/O A2h bit 0 (OUT) -/
  enabled : Bool
  /-- the eight TLB entries, I/O 80h..9Fh -/
  tlb : Vector TlbEntry 8
  /-- `mmu_viol_addr`, I/O A2h (IN) -/
  violAddr : Word
  /-- `mmu_cause`, I/O A4h: bit 1 badAddr, bit 0 memVio -/
  cause : Word
  /-- `mmu_page`, I/O A6h -/
  page : Word
  /-- `mmu_ptr`, the page table register, I/O A8h -/
  pageTable : Word
  deriving DecidableEq, Repr

/-! ### The devices' registers (60_exceptions.md R250 to R259) -/

/-- A timer (60_exceptions.md R252). `current` and `flag` belong to the running timer: an IN finds a free value there. -/
structure Timer where
  period : Word
  /-- control bit 15, I -/
  intEnable : Bool
  /-- control bit 0, S -/
  start : Bool
  current : Word
  flag : Word
  deriving DecidableEq, Repr

/-- A serial unit (60_exceptions.md R253): the byte last written to Data, and the Ctrl bits T and R. -/
structure Serial where
  sent : Byte
  /-- Ctrl bit 7, T -/
  txInt : Bool
  /-- Ctrl bit 6, R -/
  rxInt : Bool
  deriving DecidableEq, Repr

/-- The micro-SD controller (60_exceptions.md R251, R254). -/
structure MicroSd where
  /-- uSD-Ctrl bit 7, E -/
  intEna : Bool
  /-- uSD-Ctrl bit 2, I -/
  init : Bool
  /-- uSD-Ctrl bit 1, R -/
  read : Bool
  /-- uSD-Ctrl bit 0, W -/
  write : Bool
  memAddr : Word
  blkAddrH : Word
  blkAddrL : Word
  deriving DecidableEq, Repr

/-- Output port high, 1Ch (60_exceptions.md R251): M and VVVV. -/
structure OutPortHi where
  isOutput : Bool
  value : BitVec 4
  deriving DecidableEq, Repr

/-- What OUT has last put into each register of the I/O map (60_exceptions.md R250). -/
structure Io where
  timer0 : Timer
  timer1 : Timer
  ft232rl : Serial
  tec : Serial
  rn4020 : Serial
  usd : MicroSd
  ioPort : Byte
  adcRef : Byte
  outPortHi : OutPortHi
  spiData : Byte
  spiSclk : Byte
  pioMask : Byte
  pioXor : Byte
  rn4020Cmd : BitVec 4
  /-- the MODEL's: no IN or OUT has reached 2Ch since the reset, so that it still gives its initial value (log 51) -/
  rn4020CmdInitial : Bool
  rn4020Ram : Byte
  tecDSw : Byte
  tecFnc : Byte
  tecCtl : Byte
  consoleData : Word
  deriving DecidableEq, Repr

/-! ### The machine -/

/-- The whole machine (10_state.md R20 to R34). -/
structure State where
  /-- G0..G11 -/
  g : Vector Word 12
  fp : Word
  /-- the system stack pointer -/
  ssp : Word
  /-- the user stack pointer -/
  usp : Word
  pc : Word
  flag : Flag
  halted : Bool
  /-- pending requests, bit `k` the source of vector FFE0h + 2k (60_exceptions.md R211) -/
  irq : BitVec 10
  iplAttached : Bool
  mmu : Mmu
  io : Io
  mem : Memory
  /-- the MODEL's: how many free values have been taken (log 11) -/
  draws : Nat
  /-- the MODEL's: the OUT events so far, oldest first (log 34) -/
  outEvents : List (Word × Word)
  deriving DecidableEq, Repr

/-! ### Why a step stops -/

/-- The model stops where the spec says it faults; nothing after it is provable. -/
inductive Fault where
  /-- A read of a byte of memory that nothing has written (20_memory.md R56, 92 D36). Raised by every memory read.
  Safe: the machine would go on with some value. -/
  | unwrittenMemory (addr : Word)
  /-- A 16-bit access at an odd address under `MISALIGNED_POLICY = fault` (20_memory.md R61). Raised by every 16-bit
  access under that setting. Safe. -/
  | misaligned (addr : Word)
  /-- An unassigned first word (30_encoding.md R101, `ILLEGAL_POLICY = fault`). Raised by the fetch. Safe. -/
  | illegalInstruction (word : Word)
  /-- An exception inside a trap entry: no double-fault mechanism (60_exceptions.md R228, 92 D38). Raised by trap
  entry. Safe. -/
  | insideTrapEntry
  /-- A step of a halted machine, which has none: the stuck state that ends a run (45_system.md R205). Safe. -/
  | halted
  deriving DecidableEq, Repr

/-- The model gives no meaning here, as the spec says. -/
inductive Refusal where
  /-- An instruction without a meaning yet. Raised by `exec`'s own arms only. Safe. -/
  | notModelled (mnemonic : String)
  /-- A first word with a wrong field among those printed 0h or Fh (30_encoding.md R102). Raised by the fetch. Safe. -/
  | reservedField (word : Word)
  /-- A result and the flags would both be written to FLAG, in no stated order (41_arithmetic_logic.md R133). Raised by
  ADD, SUB, AND, OR, XOR, ADDS, MUL, DIV, MOD and the shifts with Rd = Fh. Safe. -/
  | flagDestination
  /-- PUSH or POP of the stack pointer in use (44_io_stack.md R194). Raised by PUSH and POP. Safe. -/
  | pushPopOfSp
  /-- A shift by an operand above 15 under `SHIFT_COUNT_MASK = none` (42_shift.md R150, 92 D20). Raised by the shifts
  under that setting. Safe. -/
  | shiftCount (operand : Word)
  /-- A store into E000h..FFFFh while the IPL ROM is attached (20_memory.md R53). Raised by every memory write. Safe. -/
  | storeIntoRom (addr : Word)
  /-- An OUT to A0h with bit 0 = 0 after detachment (20_memory.md R53). Raised by OUT. Safe. -/
  | reattachIpl
  /-- Enabling the MMU, or a memory access with the MMU enabled (20_memory.md R66, 92 D34). Raised by OUT and by every
  memory access. Safe. -/
  | mmuEnabled
  /-- IN or OUT at a port, or in a direction, that the I/O map does not give (20_memory.md R60, 92 D32). Raised by IN
  and OUT. Safe. -/
  | unlistedPort (port : Word)
  deriving DecidableEq, Repr

/-- The outcome of a step of this machine. -/
abbrev Result := Host.Outcome State Fault Refusal

/-! ### Reset (70_reset_and_hazards.md R270) -/

/-- A TLB entry at reset: DESIGN CHOICE (log 2). -/
def TlbEntry.reset : TlbEntry where
  page := 0
  valid := false
  reference := false
  dirty := false
  canRead := false
  canWrite := false
  canExecute := false
  frame := 0

/-- The MMU at reset: off (70 R270); its registers are a DESIGN CHOICE (log 2). -/
def Mmu.reset : Mmu where
  enabled := false
  tlb := Vector.replicate 8 TlbEntry.reset
  violAddr := 0
  cause := 0
  page := 0
  pageTable := 0

/-- A timer at reset: stopped, interrupt disabled (10_state.md R36); the rest is a DESIGN CHOICE (log 3). -/
def Timer.reset : Timer where
  period := 0
  intEnable := false
  start := false
  current := 0
  flag := 0

/-- A serial unit at reset: interrupts disabled (10_state.md R36); `sent` is a DESIGN CHOICE (log 3). -/
def Serial.reset : Serial where
  sent := 0
  txInt := false
  rxInt := false

/-- The micro-SD controller at reset: interrupt disabled (10_state.md R36); the rest is a DESIGN CHOICE (log 3). -/
def MicroSd.reset : MicroSd where
  intEna := false
  init := false
  read := false
  write := false
  memAddr := 0
  blkAddrH := 0
  blkAddrL := 0

/-- The I/O registers at reset: RN4020-Cmd is 0001b (10_state.md R35) and nothing has reached it (log 51), PIO-Mask is 0
(R36); the rest is a DESIGN CHOICE (log 3), RN4020-RAM at power-on among it. -/
def Io.reset : Io where
  timer0 := Timer.reset
  timer1 := Timer.reset
  ft232rl := Serial.reset
  tec := Serial.reset
  rn4020 := Serial.reset
  usd := MicroSd.reset
  ioPort := 0
  adcRef := 0
  outPortHi := { isOutput := false, value := 0 }
  spiData := 0
  spiSclk := 0
  pioMask := 0
  pioXor := 0
  rn4020Cmd := 0b0001#4
  rn4020CmdInitial := true
  rn4020Ram := 0
  tecDSw := 0
  tecFnc := 0
  tecCtl := 0
  consoleData := 0

/-- The machine right after reset (10_state.md R35, R36; 70_reset_and_hazards.md R270). The general registers, FP, SSP
and USP have no value in the spec; 0 is a DESIGN CHOICE (log 1). -/
def State.reset : State where
  g := Vector.replicate 12 0#16
  fp := 0
  ssp := 0
  usp := 0
  pc := Setting.resetPc
  flag := Flag.ofWord Setting.resetFlag
  halted := false
  irq := 0
  iplAttached := true
  mmu := Mmu.reset
  io := Io.reset
  mem := []
  draws := 0
  outEvents := []

end Sys2Proof.Machine
end

