-- ==== Sys2Proof/Machine/Traps.lean ====
section
/-! DEFINITION. The vector table (60_exceptions.md R211): the ten interrupt sources, the exceptions, the address of
each vector, and the PC each trap saves (R226). -/

namespace Sys2Proof.Machine

/-- The ten interrupt sources, in the order of their vectors (60_exceptions.md R211). -/
inductive IntSource where
  | timer0
  | timer1
  | rn4020Rx
  | rn4020Tx
  | ft232rlRx
  | ft232rlTx
  | tecRx
  | tecTx
  | microSd
  | pio
  deriving DecidableEq, Repr

/-- The index `k` of 60_exceptions.md R211. -/
def IntSource.index (k : IntSource) : Nat :=
  match k with
  | .timer0 => 0
  | .timer1 => 1
  | .rn4020Rx => 2
  | .rn4020Tx => 3
  | .ft232rlRx => 4
  | .ft232rlTx => 5
  | .tecRx => 6
  | .tecTx => 7
  | .microSd => 8
  | .pio => 9

/-- All sources, by rising vector address. -/
def IntSource.all : List IntSource :=
  [.timer0, .timer1, .rn4020Rx, .rn4020Tx, .ft232rlRx, .ft232rlTx, .tecRx, .tecTx, .microSd, .pio]

/-- The vector of a source, FFE0h + 2k. -/
def IntSource.vector (k : IntSource) : Word := 0xFFE0#16 + BitVec.ofNat 16 (2 * k.index)

/-- Whether `irq[k]` is 1 (10_state.md R34). -/
def State.requested (s : State) (k : IntSource) : Bool := s.irq.getLsbD k.index

/-- `irq[k] <- 1`. -/
def setRequest (irq : BitVec 10) (k : IntSource) : BitVec 10 := irq ||| (1#10 <<< k.index)

/-- `irq[k] <- 0`. -/
def clearRequest (irq : BitVec 10) (k : IntSource) : BitVec 10 := irq &&& ~~~(1#10 <<< k.index)

/-- Why the MMU raises MemoryProtectionViolation: the two bits of I/O A4h (60_exceptions.md R222). -/
inductive MmuCause where
  | memVio
  | badAddr
  deriving DecidableEq, Repr

/-- The cause as it stands in `mmu_cause`. -/
def MmuCause.toWord (c : MmuCause) : Word :=
  match c with
  | .memVio => 0x0001#16
  | .badAddr => 0x0002#16

/-- The exceptions (60_exceptions.md R212, R220 to R224). With the MMU off nothing raises `pageFault`, nor
`memoryProtection .memVio`; `illegalInstruction` is the slot FFFCh of `ILLEGAL_POLICY = raise`. -/
inductive Exc where
  | pageFault (page : Word)
  | memoryProtection (cause : MmuCause) (addr : Word)
  | zeroDivision
  | privilegeViolation
  | illegalInstruction
  | svc
  deriving DecidableEq, Repr

/-- The vector of an exception (60_exceptions.md R211). -/
def Exc.vector (e : Exc) : Word :=
  match e with
  | .pageFault _ => 0xFFF4#16
  | .memoryProtection _ _ => 0xFFF6#16
  | .zeroDivision => 0xFFF8#16
  | .privilegeViolation => 0xFFFA#16
  | .illegalInstruction => 0xFFFC#16
  | .svc => 0xFFFE#16

/-- The PC an open parameter selects. -/
def savedBy (policy : SavedPcPolicy) (pc next : Word) : Word :=
  match policy with
  | .faulting => pc
  | .next => next

/-- The PC an exception saves, by kind (60_exceptions.md R226): `pc` is the address of the instruction, `next` the
address after it. -/
def Exc.savedPc (e : Exc) (pc next : Word) : Word :=
  match e with
  | .pageFault _ => savedBy Setting.faultSavedPc pc next
  | .memoryProtection _ _ => savedBy Setting.faultSavedPc pc next
  | .zeroDivision => savedBy Setting.zeroDivSavedPc pc next
  | .privilegeViolation => pc
  | .illegalInstruction => pc
  | .svc => next

/-- What an exception leaves in the MMU's registers (60_exceptions.md R222, R223). -/
def Exc.record (e : Exc) (m : Mmu) : Mmu :=
  match e with
  | .pageFault page => { m with page := page }
  | .memoryProtection cause addr => { m with cause := cause.toWord, violAddr := addr }
  | .zeroDivision => m
  | .privilegeViolation => m
  | .illegalInstruction => m
  | .svc => m

/-- What an access or a part of an instruction comes to: a value, a raised exception, or a stop of the model. -/
inductive Access (α : Type) where
  | value (a : α)
  | raise (e : Exc)
  | fault (f : Fault)
  | refused (r : Refusal)
  deriving DecidableEq, Repr

/-- Go on with the value, or carry what was raised. -/
def Access.bind {α β : Type} (x : Access α) (k : α → Access β) : Access β :=
  match x with
  | .value a => k a
  | .raise e => .raise e
  | .fault f => .fault f
  | .refused r => .refused r

end Sys2Proof.Machine
end

