-- ==== Sys2Proof/Machine/Ops.lean ====
section
/-! DEFINITION. The named operations over registers, memory and the stack, and taking an exception and returning from
one, each said once (10_state.md R23 to R29, 20_memory.md R53 to R61, 60_exceptions.md R225, 45_system.md R200). -/

namespace Sys2Proof.Machine

/-! ### Writes of whole fields -/

/-- Write of the program counter. -/
def State.setPc (s : State) (v : Word) : State := { s with pc := v }

/-- Write of SSP. -/
def State.setSsp (s : State) (v : Word) : State := { s with ssp := v }

/-- Write of USP. -/
def State.setUsp (s : State) (v : Word) : State := { s with usp := v }

/-- Write of FLAG. -/
def State.setFlag (s : State) (f : Flag) : State := { s with flag := f }

/-- Write of main memory. -/
def State.setMem (s : State) (m : Memory) : State := { s with mem := m }

/-- Write of the MMU's registers. -/
def State.setMmu (s : State) (m : Mmu) : State := { s with mmu := m }

/-- Write of the I/O registers. -/
def State.setIo (s : State) (x : Io) : State := { s with io := x }

/-- Write of the pending requests. -/
def State.setIrq (s : State) (x : BitVec 10) : State := { s with irq := x }

/-- Write of the counter of free values. -/
def State.setDraws (s : State) (n : Nat) : State := { s with draws := n }

/-! ### Registers -/

/-- The stack pointer in use: SSP in privileged mode, USP in user mode (10_state.md R23). -/
def State.sp (s : State) : Word := if s.flag.p then s.ssp else s.usp

/-- Write of the stack pointer in use. -/
def State.setSp (s : State) (v : Word) : State :=
  if s.flag.p then s.setSsp v else s.setUsp v

/-- `x[i]` (10_state.md R24). -/
def State.readReg (s : State) (r : Reg) : Word :=
  match r with
  | .g n => s.g[n]
  | .fp => s.fp
  | .sp => s.sp
  | .usp => s.usp
  | .flag => s.flag.toWord

/-- `x[i] <- v` (10_state.md R25). -/
def State.writeReg (s : State) (r : Reg) (v : Word) : State :=
  match r with
  | .g n => { s with g := s.g.set n v }
  | .fp => { s with fp := v }
  | .sp => s.setSp v
  | .usp => s.setUsp v
  | .flag => s.setFlag (s.flag.write v)

/-- Write of the condition flags (41_arithmetic_logic.md R130). -/
def State.setVcsz (s : State) (v c sg z : Bool) : State := s.setFlag (s.flag.setVcsz v c sg z)

/-- One free word is taken (00_scope.md R10, `draw`): the counter moves on. -/
def State.tookDraw (s : State) : State := s.setDraws (s.draws + 1)

/-! ### Memory (20_memory.md R53 to R61) -/

/-- Whether the address shows the IPL ROM (20_memory.md R53). -/
def State.inRom (s : State) (a : Word) : Bool := s.iplAttached && decide (0xE000 ≤ a.toNat)

/-- `byte(a)` (20_memory.md R56): the ROM's byte, or the RAM's if something has written it. -/
def State.byteAt? (s : State) (a : Word) : Option Byte :=
  if s.inRom a then some (Config.iplImage (a.setWidth 13)) else s.mem.read? a.toNat

/-- A 16-bit access at an odd address (20_memory.md R61, 60_exceptions.md R222). -/
def misaligned {α : Type} (a : Word) : Access α :=
  match Setting.misaligned with
  | .fault => .fault (.misaligned a)
  | .raise => .raise (.memoryProtection .badAddr a)

/-- `MemRead(a, 1)` (20_memory.md R56). -/
def readByte (s : State) (a : Word) : Access Byte :=
  if s.mmu.enabled then .refused .mmuEnabled
  else
    match s.byteAt? a with
    | some b => .value b
    | none => .fault (.unwrittenMemory a)

/-- `MemRead(a, 2)` (20_memory.md R56, R61). -/
def readWord (s : State) (a : Word) : Access Word :=
  if s.mmu.enabled then .refused .mmuEnabled
  else if isOdd a then misaligned a
  else (readByte s a).bind fun b0 => (readByte s (a + 1#16)).bind fun b1 => .value (wordOfBytes b0 b1)

/-- `MemWrite(a, 1, v)` (20_memory.md R57, R53). -/
def writeByte (s : State) (a : Word) (b : Byte) : Access State :=
  if s.mmu.enabled then .refused .mmuEnabled
  else if s.inRom a then .refused (.storeIntoRom a)
  else .value (s.setMem (s.mem.write a.toNat b))

/-- `MemWrite(a, 2, v)` (20_memory.md R57, R61). At an odd address in the attached ROM R61 raises and R53 refuses, and the
spec gives no precedence: the alignment is tested first (DESIGN CHOICE, unsafe: log 48). -/
def writeWord (s : State) (a : Word) (v : Word) : Access State :=
  if s.mmu.enabled then .refused .mmuEnabled
  else if isOdd a then misaligned a
  else (writeByte s a (firstByte v)).bind fun s1 => writeByte s1 (a + 1#16) (secondByte v)

/-! ### The stack (20_memory.md R58, R59) -/

/-- `Push(v)`. -/
def push (s : State) (v : Word) : Access State :=
  (writeWord s (s.sp - 2#16) v).bind fun s1 => .value (s1.setSp (s.sp - 2#16))

/-- `Pop()`. -/
def pop (s : State) : Access (Word × State) :=
  (readWord s s.sp).bind fun v => .value (v, s.setSp (s.sp + 2#16))

/-! ### Taking an exception and returning from one -/

/-- The body of a trap entry (60_exceptions.md R225): P set and E cleared, the saved PC and then the old FLAG pushed on
SSP, the PC loaded from the vector. -/
def trapBody (vector saved : Word) (s : State) : Access State :=
  (push (s.setFlag s.flag.enterTrap) saved).bind fun s1 =>
    (push s1 s.flag.toWord).bind fun s2 =>
      (readWord s2 vector).bind fun handler => .value (s2.setPc handler)

/-- Trap entry: an exception raised inside it is a model fault (60_exceptions.md R228). -/
def trapEntry (vector saved : Word) (s : State) : Result :=
  match trapBody vector saved s with
  | .value t => .next t
  | .raise _ => .fault .insideTrapEntry
  | .fault f => .fault f
  | .refused r => .refused r

/-- Taking an exception at the instruction whose successor is at `next` (60_exceptions.md R220 to R226). -/
def takeException (e : Exc) (next : Word) (s : State) : Result :=
  trapEntry e.vector (e.savedPc s.pc next) (s.setMmu (e.record s.mmu))

/-- Whether an instruction may run: it is not of `PRIVILEGED_SET`, or the mode is privileged; for IN and OUT the I/O
privilege flag does as well (60_exceptions.md R240). -/
def allowed (i : Instr) (s : State) : Bool :=
  !Setting.privileged i || s.flag.p ||
    match i with
    | .inp _ _ => s.flag.i
    | .out _ _ => s.flag.i
    | _ => false

/-- The check made after decode and before any effect (60_exceptions.md R240, R221). -/
def guarded (i : Instr) (s : State) (effect : Result) : Result :=
  if allowed i s then effect else takeException .privilegeViolation s.pc s

/-- Taking an interrupt at an instruction boundary (60_exceptions.md R216, R225). -/
def takeInterrupt (k : IntSource) (s : State) : Result :=
  trapEntry k.vector s.pc (s.setIrq (clearRequest s.irq k))

/-- Return from a trap (45_system.md R200, R201): both words from the stack in use at the start; FLAG by `FlagWrite`,
so that E, P, I are kept in user mode. -/
def trapReturn (s : State) : Access State :=
  (readWord s s.sp).bind fun f =>
    (readWord s (s.sp + 2#16)).bind fun p =>
      .value (((s.setSp (s.sp + 4#16)).setFlag (s.flag.write f)).setPc p)

/-- The end of an instruction: the next state, or the exception it raised taken from the state it began in, since a
faulting instruction has written nothing (40_nop_load_store.md R123, 60_exceptions.md R227). -/
def complete (s : State) (next : Word) (r : Access State) : Result :=
  match r with
  | .value t => .next t
  | .raise e => takeException e next s
  | .fault f => .fault f
  | .refused r => .refused r

end Sys2Proof.Machine
end

