-- ==== Sys2Proof/Machine/Flags.lean ====
section
/-! DEFINITION. Results and flags of the arithmetic, logic and shift instructions (41_arithmetic_logic.md R131 to R143,
42_shift.md R150 to R155) and the jump conditions (43_jump_call.md R160). -/

namespace Sys2Proof.Machine

/-- What an operation computes: the 16-bit result, and V and C where the source calls them valid (`none` is a draw,
41_arithmetic_logic.md R132). S and Z always follow from the result (R131). -/
structure AluOut where
  result : Word
  v : Option Bool
  c : Option Bool
  deriving DecidableEq, Repr

/-- FLAG.S (41_arithmetic_logic.md R131). -/
def signOf (r : Word) : Bool := r.getLsbD 15

/-- FLAG.Z (41_arithmetic_logic.md R131). -/
def zeroOf (r : Word) : Bool := decide (r = 0#16)

/-! ### Addition and subtraction (41_arithmetic_logic.md R134, R135) -/

/-- The carry out of bit 15. -/
def addCarry (a b : Word) : Bool := decide (65536 ≤ a.toNat + b.toNat)

/-- Signed overflow of a sum. -/
def addOverflow (a b : Word) : Bool :=
  (a.getLsbD 15 == b.getLsbD 15) && ((a + b).getLsbD 15 != a.getLsbD 15)

/-- The borrow. -/
def subBorrow (a b : Word) : Bool := decide (a.toNat < b.toNat)

/-- Signed overflow of a difference. -/
def subOverflow (a b : Word) : Bool :=
  (a.getLsbD 15 != b.getLsbD 15) && ((a - b).getLsbD 15 != a.getLsbD 15)

/-- ADD (R134). -/
def aluAdd (a b : Word) : AluOut := { result := a + b, v := some (addOverflow a b), c := some (addCarry a b) }

/-- SUB and CMP (R135, R136). -/
def aluSub (a b : Word) : AluOut := { result := a - b, v := some (subOverflow a b), c := some (subBorrow a b) }

/-! ### The operations whose V and C are draws (41_arithmetic_logic.md R132, R137 to R143) -/

/-- A result with V and C drawn. -/
def drawnVC (r : Word) : AluOut := { result := r, v := none, c := none }

/-- MUL: the low 16 bits of the product (R141). -/
def mul16 (a b : Word) : Word := BitVec.ofNat 16 (a.toNat * b.toNat)

/-- ADDS: the operand scaled by two (R140). -/
def addScaled (a b : Word) : Word := BitVec.ofNat 16 (a.toNat + 2 * b.toNat)

/-- The signed quotient, rounded toward zero; 8000h / FFFFh is a draw (R142). -/
def signedDiv (a b : Word) : Word :=
  if a = 0x8000#16 ∧ b = 0xFFFF#16 then Config.signedQuotientCorner a b
  else BitVec.ofInt 16 (a.toInt.tdiv b.toInt)

/-- The signed remainder, with the sign of the dividend (R143). -/
def signedMod (a b : Word) : Word := BitVec.ofInt 16 (a.toInt - b.toInt * a.toInt.tdiv b.toInt)

/-- `div16` (R142). -/
def div16 (a b : Word) : Word :=
  if Setting.divSigned then signedDiv a b else BitVec.ofNat 16 (a.toNat / b.toNat)

/-- `mod16` (R143). -/
def mod16 (a b : Word) : Word :=
  if Setting.divSigned then signedMod a b else BitVec.ofNat 16 (a.toNat % b.toNat)

/-- DIV and MOD raise ZeroDivision on a zero operand (R142, R143). -/
def divisor (f : Word → Word → Word) (a b : Word) : Access AluOut :=
  if b = 0#16 then .raise .zeroDivision else .value (drawnVC (f a b))

/-! ### Shifts (42_shift.md R150 to R155) -/

/-- A count of 0..15, for which the rules are complete; a greater one is refused (R150). -/
def boundedCount (operand : Word) (n : Nat) : Access Nat :=
  if n ≤ 15 then .value n else .refused (.shiftCount operand)

/-- The shift count `n` (R150): the operand's bits under the mask, all of them under `none`, and no count above 15. -/
def shiftCount (b : Word) : Access Nat :=
  match Setting.shiftCountMask with
  | some mask => boundedCount b (b &&& mask).toNat
  | none => boundedCount b b.toNat

/-- A shift's outcome: C is the bit shifted out for a count of one and a draw otherwise; V is a draw (R151). -/
def shiftOut (r : Word) (out : Bool) (n : Nat) : AluOut :=
  { result := r, v := none, c := if n = 1 then some out else none }

/-- The template of the shifts: the shifted value, and the bit that a shift by one loses. -/
def aluShift (shift : Word → Nat → Word) (lost : Word → Bool) (a b : Word) : Access AluOut :=
  (shiftCount b).bind fun n => .value (shiftOut (shift a n) (lost a) n)

/-- SHLA and SHLL compute the same (R152, R153). -/
def aluShl (a b : Word) : Access AluOut := aluShift (fun x n => x <<< n) (fun x => x.getLsbD 15) a b

/-- SHRA copies bit 15 (R154). -/
def aluShra (a b : Word) : Access AluOut := aluShift (fun x n => x.sshiftRight n) (fun x => x.getLsbD 0) a b

/-- SHRL brings zeros in at bit 15 (R155). -/
def aluShrl (a b : Word) : Access AluOut := aluShift (fun x n => x >>> n) (fun x => x.getLsbD 0) a b

/-! ### Writing the flags -/

/-- How many free bits an outcome takes: both are taken as soon as one is needed. -/
def AluOut.drawsTaken (o : AluOut) : Nat := if o.v.isSome && o.c.isSome then 0 else 2

/-- V, C, S, Z from an outcome; a V or C that is not valid takes a free bit (41_arithmetic_logic.md R131, R132). -/
def State.setFlagsOf (s : State) (o : AluOut) : State :=
  (s.setVcsz (o.v.getD (Config.freeBit s.draws)) (o.c.getD (Config.freeBit (s.draws + 1)))
    (signOf o.result) (zeroOf o.result)).setDraws (s.draws + o.drawsTaken)

/-- V, C, S and Z all drawn: `LD_FLAG_POLICY = draw` (40_nop_load_store.md R121). -/
def State.drawFlags (s : State) : State :=
  (s.setVcsz (Config.freeBit s.draws) (Config.freeBit (s.draws + 1)) (Config.freeBit (s.draws + 2))
    (Config.freeBit (s.draws + 3))).setDraws (s.draws + 4)

/-! ### The jump conditions (43_jump_call.md R160) -/

/-- S xor V: less than, signed. -/
def Flag.lessSigned (f : Flag) : Bool := f.s != f.v

/-- Z or (S xor V): less or equal, signed. -/
def Flag.lessEqualSigned (f : Flag) : Bool := f.z || f.lessSigned

/-- Z or C: lower or same, unsigned. -/
def Flag.lowerOrSame (f : Flag) : Bool := f.z || f.c

end Sys2Proof.Machine
end

