-- ==== Sys2Proof/Machine/Operands.lean ====
section
/-! DEFINITION. The operand forms (30_encoding.md R86 to R95): lengths, effective addresses, operand values, stores. -/

namespace Sys2Proof.Machine

/-! ### Lengths in bytes (30_encoding.md R82) -/

/-- Length of an instruction with this operand. -/
def operandSize (o : Operand) : Word :=
  match o with
  | .direct _ => 4#16
  | .indexed _ _ => 4#16
  | .imm _ => 4#16
  | .fpRel _ => 2#16
  | .reg _ => 2#16
  | .imm4 _ => 2#16
  | .indirect _ => 2#16
  | .byteIndirect _ => 2#16

/-- Length of an ST with this operand. -/
def storeSize (o : StoreOperand) : Word :=
  match o with
  | .direct _ => 4#16
  | .indexed _ _ => 4#16
  | .fpRel _ => 2#16
  | .indirect _ => 2#16
  | .byteIndirect _ => 2#16

/-- Length of an IN or OUT with this operand. -/
def portSize (o : PortOperand) : Word :=
  match o with
  | .direct _ => 4#16
  | .indirect _ => 2#16

/-! ### Effective addresses (30_encoding.md R95) -/

/-- Form 1: Dsp + Rx modulo 2^16 (30_encoding.md R88). -/
def indexedEA (s : State) (dsp : Word) (rx : Reg) : Word := dsp + s.readReg rx

/-- Form 3: FP + 2 * s(D4) modulo 2^16 (30_encoding.md R90). -/
def fpRelEA (s : State) (d4 : BitVec 4) : Word := s.fp + 2#16 * d4.signExtend 16

/-- Where ST stores. -/
def storeEA (s : State) (o : StoreOperand) : Word :=
  match o with
  | .direct dsp => dsp
  | .indexed dsp rx => indexedEA s dsp rx
  | .fpRel d4 => fpRelEA s d4
  | .indirect rx => s.readReg rx
  | .byteIndirect rx => s.readReg rx

/-- Where a jump or CALL goes (43_jump_call.md R160). -/
def targetEA (s : State) (t : Target) : Word :=
  match t with
  | .direct dsp => dsp
  | .indexed dsp rx => indexedEA s dsp rx

/-- The I/O address of an IN or OUT (44_io_stack.md R190). -/
def portAddr (s : State) (o : PortOperand) : Word :=
  match o with
  | .direct port => port
  | .indirect rx => s.readReg rx

/-! ### Operand values and stores (30_encoding.md R87 to R95) -/

/-- `Operand(form)`: form 7 zero-extends its byte (92 D4). -/
def readOperand (s : State) (o : Operand) : Access Word :=
  match o with
  | .direct dsp => readWord s dsp
  | .indexed dsp rx => readWord s (indexedEA s dsp rx)
  | .imm v => .value v
  | .fpRel d4 => readWord s (fpRelEA s d4)
  | .reg rs => .value (s.readReg rs)
  | .imm4 i4 => .value (i4.signExtend 16)
  | .indirect rx => readWord s (s.readReg rx)
  | .byteIndirect rx => (readByte s (s.readReg rx)).bind fun b => .value (b.setWidth 16)

/-- `Store(form, v)`: form 7 writes `v[7:0]` to the one byte. -/
def storeOperand (s : State) (o : StoreOperand) (v : Word) : Access State :=
  match o with
  | .direct dsp => writeWord s dsp v
  | .indexed dsp rx => writeWord s (indexedEA s dsp rx) v
  | .fpRel d4 => writeWord s (fpRelEA s d4) v
  | .indirect rx => writeWord s (s.readReg rx) v
  | .byteIndirect rx => writeByte s (s.readReg rx) (v.setWidth 8)

end Sys2Proof.Machine
end

