-- ==== Sys2Proof/Machine/Arithmetic.lean ====
section
/-! DEFINITION. ADD, SUB, CMP, AND, OR, XOR, ADDS, MUL, DIV, MOD (41_arithmetic_logic.md), over the one template of
R130, which the shifts share (42_shift.md R150). -/

namespace Sys2Proof.Machine

/-- The template of R130: both operands read before anything is written, then Rd, the flags and the PC. -/
def binaryOperation (f : Word → Word → Access AluOut) (rd : Reg) (src : Operand) (s : State) : Result :=
  complete s (s.pc + operandSize src)
    ((readOperand s src).bind fun b =>
      (f (s.readReg rd) b).bind fun o =>
        .value (((s.writeReg rd o.result).setFlagsOf o).setPc (s.pc + operandSize src)))

/-- The template with FLAG refused as its destination (R133). -/
def flagSetting (f : Word → Word → Access AluOut) (rd : Reg) (src : Operand) (s : State) : Result :=
  match rd with
  | .flag => .refused .flagDestination
  | r => binaryOperation f r src s

/-- ADD (R134). -/
def execAdd (rd : Reg) (src : Operand) (s : State) : Result :=
  guarded (.add rd src) s (flagSetting (fun a b => .value (aluAdd a b)) rd src s)

/-- SUB (R135). -/
def execSub (rd : Reg) (src : Operand) (s : State) : Result :=
  guarded (.sub rd src) s (flagSetting (fun a b => .value (aluSub a b)) rd src s)

/-- CMP (R136): SUB without the write of Rd; any Rd is admitted. -/
def execCmp (rd : Reg) (src : Operand) (s : State) : Result :=
  guarded (.cmp rd src) s <| complete s (s.pc + operandSize src)
    ((readOperand s src).bind fun b =>
      .value ((s.setFlagsOf (aluSub (s.readReg rd) b)).setPc (s.pc + operandSize src)))

/-- AND (R137). -/
def execAnd (rd : Reg) (src : Operand) (s : State) : Result :=
  guarded (.and rd src) s (flagSetting (fun a b => .value (drawnVC (a &&& b))) rd src s)

/-- OR (R138). -/
def execOr (rd : Reg) (src : Operand) (s : State) : Result :=
  guarded (.or rd src) s (flagSetting (fun a b => .value (drawnVC (a ||| b))) rd src s)

/-- XOR (R139). -/
def execXor (rd : Reg) (src : Operand) (s : State) : Result :=
  guarded (.xor rd src) s (flagSetting (fun a b => .value (drawnVC (a ^^^ b))) rd src s)

/-- ADDS (R140). -/
def execAdds (rd : Reg) (src : Operand) (s : State) : Result :=
  guarded (.adds rd src) s (flagSetting (fun a b => .value (drawnVC (addScaled a b))) rd src s)

/-- MUL (R141). -/
def execMul (rd : Reg) (src : Operand) (s : State) : Result :=
  guarded (.mul rd src) s (flagSetting (fun a b => .value (drawnVC (mul16 a b))) rd src s)

/-- DIV (R142). -/
def execDiv (rd : Reg) (src : Operand) (s : State) : Result :=
  guarded (.div rd src) s (flagSetting (divisor div16) rd src s)

/-- MOD (R143). -/
def execMod (rd : Reg) (src : Operand) (s : State) : Result :=
  guarded (.mod rd src) s (flagSetting (divisor mod16) rd src s)

end Sys2Proof.Machine
end

