-- ==== Sys2Proof/Machine/Ports.lean ====
section
/-! DEFINITION. The I/O map (60_exceptions.md R250, R251): which register each even port address reaches, by direction.
What a row does not give is refused (20_memory.md R60, 92 D32). -/

namespace Sys2Proof.Machine

/-- The two timers. -/
inductive TimerId where
  | t0
  | t1
  deriving DecidableEq, Repr

/-- The three serial units. -/
inductive SerialId where
  | ft232rl
  | tec
  | rn4020
  deriving DecidableEq, Repr

/-- The device registers whose value the CPU cannot know: each IN is answered by the device (20_memory.md R60). -/
inductive DeviceInput where
  | serialData (u : SerialId)
  | serialStat (u : SerialId)
  | usdStat
  | usdMemAddr
  | usdBlkAddrH
  | usdBlkAddrL
  | ioPort
  | mode
  | spiData
  | spiStat
  | pioMask
  | pioXor
  | tecLamps
  | tecStatus
  | consoleSwitches
  | consoleAddress
  | rotarySwitch
  | functionReg
  deriving DecidableEq, Repr

/-- The bits a device drives; the others read 0 (60_exceptions.md R250 "00H", R251 printed zeros). -/
def DeviceInput.mask (d : DeviceInput) : Word :=
  match d with
  | .serialData _ => 0x00FF#16
  | .serialStat _ => 0x00C0#16
  | .usdStat => 0x00C1#16
  | .usdMemAddr => 0xFFFF#16
  | .usdBlkAddrH => 0xFFFF#16
  | .usdBlkAddrL => 0xFFFF#16
  | .ioPort => 0x00FF#16
  | .mode => 0x0007#16
  | .spiData => 0x00FF#16
  | .spiStat => 0x00FF#16
  | .pioMask => 0x00FF#16
  | .pioXor => 0x00FF#16
  | .tecLamps => 0x00FF#16
  | .tecStatus => 0x00FF#16
  | .consoleSwitches => 0xFFFF#16
  | .consoleAddress => 0xFFFF#16
  | .rotarySwitch => 0x001F#16
  | .functionReg => 0x000F#16

/-- What an IN reaches. -/
inductive InPort where
  | device (d : DeviceInput)
  | timerCurrent (t : TimerId)
  | timerFlag (t : TimerId)
  | rn4020Cmd
  | rn4020Ram
  | fixedZero
  | tlbHigh (k : Fin 8)
  | tlbLow (k : Fin 8)
  | mmuViolAddr
  | mmuCause
  | mmuPage
  deriving DecidableEq, Repr

/-- What an OUT reaches. -/
inductive OutPort where
  | timerPeriod (t : TimerId)
  | timerControl (t : TimerId)
  | serialData (u : SerialId)
  | serialCtrl (u : SerialId)
  | usdCtrl
  | usdMemAddr
  | usdBlkAddrH
  | usdBlkAddrL
  | ioPort
  | adcRef
  | outPortHi
  | spiData
  | spiSclk
  | pioMask
  | pioXor
  | rn4020Cmd
  | rn4020Ram
  | tecDSw
  | tecFnc
  | tecCtl
  | tlbHigh (k : Fin 8)
  | tlbLow (k : Fin 8)
  | iplDetach
  | mmuEnable
  | mmuPageTable
  | consoleData
  deriving DecidableEq, Repr

/-- The column "IN gives" of 60_exceptions.md R250, the TLB window (20_memory.md R65) apart. -/
def inTable : List (Word × InPort) :=
  [(0x00#16, .timerCurrent .t0), (0x02#16, .timerFlag .t0), (0x04#16, .timerCurrent .t1), (0x06#16, .timerFlag .t1),
   (0x08#16, .device (.serialData .ft232rl)), (0x0A#16, .device (.serialStat .ft232rl)),
   (0x0C#16, .device (.serialData .tec)), (0x0E#16, .device (.serialStat .tec)),
   (0x10#16, .device .usdStat), (0x12#16, .device .usdMemAddr),
   (0x14#16, .device .usdBlkAddrH), (0x16#16, .device .usdBlkAddrL),
   (0x18#16, .device .ioPort), (0x1E#16, .device .mode),
   (0x20#16, .device .spiData), (0x22#16, .device .spiStat),
   (0x24#16, .device .pioMask), (0x26#16, .device .pioXor),
   (0x28#16, .device (.serialData .rn4020)), (0x2A#16, .device (.serialStat .rn4020)),
   (0x2C#16, .rn4020Cmd), (0x2E#16, .rn4020Ram),
   (0x30#16, .device .tecLamps), (0x32#16, .fixedZero), (0x34#16, .fixedZero), (0x36#16, .device .tecStatus),
   (0x38#16, .fixedZero),
   (0xA2#16, .mmuViolAddr), (0xA4#16, .mmuCause), (0xA6#16, .mmuPage),
   (0xF8#16, .device .consoleSwitches), (0xFA#16, .device .consoleAddress),
   (0xFC#16, .device .rotarySwitch), (0xFE#16, .device .functionReg)]

/-- The column "OUT sets" of 60_exceptions.md R250, the TLB window apart. -/
def outTable : List (Word × OutPort) :=
  [(0x00#16, .timerPeriod .t0), (0x02#16, .timerControl .t0), (0x04#16, .timerPeriod .t1), (0x06#16, .timerControl .t1),
   (0x08#16, .serialData .ft232rl), (0x0A#16, .serialCtrl .ft232rl),
   (0x0C#16, .serialData .tec), (0x0E#16, .serialCtrl .tec),
   (0x10#16, .usdCtrl), (0x12#16, .usdMemAddr), (0x14#16, .usdBlkAddrH), (0x16#16, .usdBlkAddrL),
   (0x18#16, .ioPort), (0x1A#16, .adcRef), (0x1C#16, .outPortHi),
   (0x20#16, .spiData), (0x22#16, .spiSclk), (0x24#16, .pioMask), (0x26#16, .pioXor),
   (0x28#16, .serialData .rn4020), (0x2A#16, .serialCtrl .rn4020), (0x2C#16, .rn4020Cmd), (0x2E#16, .rn4020Ram),
   (0x32#16, .tecDSw), (0x34#16, .tecFnc), (0x36#16, .tecCtl),
   (0xA0#16, .iplDetach), (0xA2#16, .mmuEnable), (0xA8#16, .mmuPageTable),
   (0xF8#16, .consoleData)]

/-- Whether the port is an even address of the TLB window 80h..9Fh (20_memory.md R65). -/
def inTlbWindow (a : Word) : Bool := decide (a.toNat / 32 = 4) && !isOdd a

/-- The TLB entry `k` of a port 80h + 4k or 82h + 4k (20_memory.md R65). -/
def tlbIndex (a : Word) : Fin 8 := ⟨a.toNat / 4 % 8, Nat.mod_lt _ (by decide)⟩

/-- The register an IN reaches, if the map gives one. -/
def inPort? (a : Word) : Option InPort :=
  if inTlbWindow a then some (if a.getLsbD 1 then .tlbLow (tlbIndex a) else .tlbHigh (tlbIndex a))
  else inTable.lookup a

/-- The register an OUT reaches, if the map gives one. -/
def outPort? (a : Word) : Option OutPort :=
  if inTlbWindow a then some (if a.getLsbD 1 then .tlbLow (tlbIndex a) else .tlbHigh (tlbIndex a))
  else outTable.lookup a

end Sys2Proof.Machine
end

