-- ==== Sys2Proof/Machine/Devices.lean ====
section
/-! DEFINITION. Reading and writing the I/O space (20_memory.md R60, 60_exceptions.md R250 to R259), and the view of the
interrupt enables (R214). -/

namespace Sys2Proof.Machine

/-! ### Named registers -/

/-- A timer by name. -/
def Io.timer (io : Io) (t : TimerId) : Timer :=
  match t with
  | .t0 => io.timer0
  | .t1 => io.timer1

/-- Write of a timer. -/
def Io.setTimer (io : Io) (t : TimerId) (x : Timer) : Io :=
  match t with
  | .t0 => { io with timer0 := x }
  | .t1 => { io with timer1 := x }

/-- A serial unit by name. -/
def Io.serial (io : Io) (u : SerialId) : Serial :=
  match u with
  | .ft232rl => io.ft232rl
  | .tec => io.tec
  | .rn4020 => io.rn4020

/-- Write of a serial unit. -/
def Io.setSerial (io : Io) (u : SerialId) (x : Serial) : Io :=
  match u with
  | .ft232rl => { io with ft232rl := x }
  | .tec => { io with tec := x }
  | .rn4020 => { io with rn4020 := x }

/-- `int_enable[k]`, the bit last written to the source's control port (60_exceptions.md R214). -/
def Io.intEnable (io : Io) (k : IntSource) : Bool :=
  match k with
  | .timer0 => io.timer0.intEnable
  | .timer1 => io.timer1.intEnable
  | .rn4020Rx => io.rn4020.rxInt
  | .rn4020Tx => io.rn4020.txInt
  | .ft232rlRx => io.ft232rl.rxInt
  | .ft232rlTx => io.ft232rl.txInt
  | .tecRx => io.tec.rxInt
  | .tecTx => io.tec.txInt
  | .microSd => io.usd.intEna
  | .pio => decide (io.pioMask ≠ 0#8)

/-! ### TLB words (20_memory.md R64, R65) -/

/-- The upper word of an entry: PAGE in bits 7..0. -/
def TlbEntry.highWord (t : TlbEntry) : Word := 0#8 ++ t.page

/-- The lower word of an entry; the undefined bits 14 and 13 are `free`. -/
def TlbEntry.lowWord (t : TlbEntry) (free : BitVec 2) : Word :=
  BitVec.ofBool t.valid ++ free ++ BitVec.ofBool t.reference ++ BitVec.ofBool t.dirty ++ BitVec.ofBool t.canRead
    ++ BitVec.ofBool t.canWrite ++ BitVec.ofBool t.canExecute ++ t.frame

/-- Write of the upper word. -/
def TlbEntry.setHigh (t : TlbEntry) (v : Word) : TlbEntry := { t with page := v.extractLsb' 0 8 }

/-- Write of the lower word; bits 14 and 13 are ignored. -/
def TlbEntry.setLow (t : TlbEntry) (v : Word) : TlbEntry :=
  { t with
    valid := v.getLsbD 15
    reference := v.getLsbD 12
    dirty := v.getLsbD 11
    canRead := v.getLsbD 10
    canWrite := v.getLsbD 9
    canExecute := v.getLsbD 8
    frame := v.extractLsb' 0 8 }

/-! ### IN -/

/-- The free value an IN finds next. -/
def State.nextFree (s : State) : Word := Config.freeWord s.draws

/-- A timer's register as the running timer has left it: a free value (60_exceptions.md R252). -/
def State.advanceTimer (s : State) (t : TimerId) (x : Timer) : State :=
  s.tookDraw.setIo (s.io.setTimer t x)

/-- An IN of RN4020-Cmd: the initial value, which the source fixes (60_exceptions.md R256, 95 E9), to the first access
after a reset; then a free value within the printed zeros, as of any device (20_memory.md R60, 92 D37). That the first
access ends it is a DESIGN CHOICE, unsafe (log 51). -/
def readRn4020Cmd (s : State) : Word × State :=
  if s.io.rn4020CmdInitial then (s.io.rn4020Cmd.setWidth 16, s.setIo { s.io with rn4020CmdInitial := false })
  else (s.nextFree &&& 0x000F#16, s.tookDraw)

/-- The value of an IN and the state it leaves (20_memory.md R60). Which reads have side effects is not in the source
(91 N27): an IN of A2h, A4h or A6h leaves the MMU register it reads as it is (DESIGN CHOICE, unsafe: log 49). TLB words
and RN4020-RAM read back as written (DEDUCED, unsafe: logs 35, 36). -/
def readPort (s : State) (p : InPort) : Word × State :=
  match p with
  | .device d => (s.nextFree &&& d.mask, s.tookDraw)
  | .timerCurrent t => (s.nextFree, s.advanceTimer t { s.io.timer t with current := s.nextFree })
  | .timerFlag t => (s.nextFree, s.advanceTimer t { s.io.timer t with flag := s.nextFree })
  | .rn4020Cmd => readRn4020Cmd s
  | .rn4020Ram => (s.io.rn4020Ram.setWidth 16, s)
  | .fixedZero => (0#16, s)
  | .tlbHigh k => (s.mmu.tlb[k].highWord, s)
  | .tlbLow k => (s.mmu.tlb[k].lowWord (s.nextFree.extractLsb' 13 2), s.tookDraw)
  | .mmuViolAddr => (s.mmu.violAddr, s)
  | .mmuCause => (s.mmu.cause &&& 0x0003#16, s)
  | .mmuPage => (s.mmu.page &&& 0x00FF#16, s)

/-- `IORead(addr)`. -/
def ioRead (s : State) (a : Word) : Access (Word × State) :=
  match inPort? a with
  | some p => .value (readPort s p)
  | none => .refused (.unlistedPort a)

/-! ### OUT -/

/-- The I/O registers after an OUT that reaches one of them: bits printed 0 are ignored (60_exceptions.md R251), and an
8-bit port takes the low byte (20_memory.md R60). The MMU's and the IPL's ports leave them alone. -/
def writeIo (io : Io) (p : OutPort) (v : Word) : Io :=
  match p with
  | .timerPeriod t => io.setTimer t { io.timer t with period := v }
  | .timerControl t => io.setTimer t { io.timer t with intEnable := v.getLsbD 15, start := v.getLsbD 0 }
  | .serialData u => io.setSerial u { io.serial u with sent := v.setWidth 8 }
  | .serialCtrl u => io.setSerial u { io.serial u with txInt := v.getLsbD 7, rxInt := v.getLsbD 6 }
  | .usdCtrl =>
    { io with usd := { io.usd with
        intEna := v.getLsbD 7, init := v.getLsbD 2, read := v.getLsbD 1, write := v.getLsbD 0 } }
  | .usdMemAddr => { io with usd := { io.usd with memAddr := v } }
  | .usdBlkAddrH => { io with usd := { io.usd with blkAddrH := v } }
  | .usdBlkAddrL => { io with usd := { io.usd with blkAddrL := v } }
  | .ioPort => { io with ioPort := v.setWidth 8 }
  | .adcRef => { io with adcRef := v.setWidth 8 }
  | .outPortHi => { io with outPortHi := { isOutput := v.getLsbD 7, value := v.setWidth 4 } }
  | .spiData => { io with spiData := v.setWidth 8 }
  | .spiSclk => { io with spiSclk := v.setWidth 8 }
  | .pioMask => { io with pioMask := v.setWidth 8 }
  | .pioXor => { io with pioXor := v.setWidth 8 }
  | .rn4020Cmd => { io with rn4020Cmd := v.setWidth 4, rn4020CmdInitial := false }
  | .rn4020Ram => { io with rn4020Ram := v.setWidth 8 }
  | .tecDSw => { io with tecDSw := v.setWidth 8 }
  | .tecFnc => { io with tecFnc := v.setWidth 8 }
  | .tecCtl => { io with tecCtl := v.setWidth 8 }
  | .tlbHigh _ => io
  | .tlbLow _ => io
  | .iplDetach => io
  | .mmuEnable => io
  | .mmuPageTable => io
  | .consoleData => { io with consoleData := v }

/-- The MMU's registers after an OUT (20_memory.md R63, R66). -/
def writeMmu (m : Mmu) (p : OutPort) (v : Word) : Mmu :=
  match p with
  | .tlbHigh k => { m with tlb := m.tlb.set k (m.tlb[k].setHigh v) }
  | .tlbLow k => { m with tlb := m.tlb.set k (m.tlb[k].setLow v) }
  | .mmuPageTable => { m with pageTable := v }
  | .mmuEnable => { m with enabled := v.getLsbD 0 }
  | _ => m

/-- Whether the IPL ROM is attached after an OUT: bit 0 written to A0h detaches it for good (20_memory.md R53). -/
def writeIpl (attached : Bool) (p : OutPort) (v : Word) : Bool :=
  match p with
  | .iplDetach => attached && !v.getLsbD 0
  | _ => attached

/-- The writes the model does not admit: re-attaching the ROM (20_memory.md R53), enabling the MMU (R66). -/
def outRefusal (s : State) (p : OutPort) (v : Word) : Option Refusal :=
  match p with
  | .iplDetach => if s.iplAttached || v.getLsbD 0 then none else some .reattachIpl
  | .mmuEnable => if v.getLsbD 0 then some .mmuEnabled else none
  | _ => none

/-- `IOWrite(addr, v)`: the register is written and the write is an event of the run (92, host table). The event carries
all 16 bits of `v`, of an 8-bit port too (DESIGN CHOICE, unsafe: log 50). -/
def ioWrite (s : State) (a : Word) (v : Word) : Access State :=
  match outPort? a with
  | none => .refused (.unlistedPort a)
  | some p =>
    match outRefusal s p v with
    | some r => .refused r
    | none =>
      .value { s with
        io := writeIo s.io p v
        mmu := writeMmu s.mmu p v
        iplAttached := writeIpl s.iplAttached p v
        outEvents := s.outEvents ++ [(a, v)] }

end Sys2Proof.Machine
end

