-- ==== Sys2Proof/Machine/IoStack.lean ====
section
/-! DEFINITION. IN, OUT, PUSH, POP (44_io_stack.md R190 to R194). -/

namespace Sys2Proof.Machine

/-- IN (R190). -/
def execInp (rd : Reg) (port : PortOperand) (s : State) : Result :=
  guarded (.inp rd port) s <| complete s (s.pc + portSize port)
    ((ioRead s (portAddr s port)).bind fun r =>
      .value ((r.2.writeReg rd r.1).setPc (s.pc + portSize port)))

/-- OUT (R191). -/
def execOut (rd : Reg) (port : PortOperand) (s : State) : Result :=
  guarded (.out rd port) s <| complete s (s.pc + portSize port)
    ((ioWrite s (portAddr s port) (s.readReg rd)).bind fun t => .value (t.setPc (s.pc + portSize port)))

/-- Whether a register number names the stack pointer in use: D always, E in user mode (R194). -/
def isCurrentSp (s : State) (rd : Reg) : Bool :=
  match rd with
  | .sp => true
  | .usp => !s.flag.p
  | _ => false

/-- PUSH (R192, R194). -/
def execPush (rd : Reg) (s : State) : Result :=
  guarded (.push rd) s <|
    if isCurrentSp s rd then .refused .pushPopOfSp
    else complete s (s.pc + 2#16) ((push s (s.readReg rd)).bind fun t => .value (t.setPc (s.pc + 2#16)))

/-- POP (R193, R194): the stack pointer is the one in use before Rd is written. -/
def execPop (rd : Reg) (s : State) : Result :=
  guarded (.pop rd) s <|
    if isCurrentSp s rd then .refused .pushPopOfSp
    else complete s (s.pc + 2#16) ((pop s).bind fun r => .value ((r.2.writeReg rd r.1).setPc (s.pc + 2#16)))

end Sys2Proof.Machine
end

