-- ==== Sys2Proof/Machine/Jump.lean ====
section
/-! DEFINITION. The fifteen jumps, CALL and RET (43_jump_call.md R160 to R177). -/

namespace Sys2Proof.Machine

/-- The template of R160: the target if the condition holds, else the address after the two words. -/
def jumpIf (cond : Bool) (tgt : Target) (s : State) : Result :=
  .next (s.setPc (if cond then targetEA s tgt else s.pc + 4#16))

/-- JZ (R161). -/
def execJz (tgt : Target) (s : State) : Result :=
  guarded (.jz tgt) s (jumpIf s.flag.z tgt s)

/-- JC (R162). -/
def execJc (tgt : Target) (s : State) : Result :=
  guarded (.jc tgt) s (jumpIf s.flag.c tgt s)

/-- JM (R163). -/
def execJm (tgt : Target) (s : State) : Result :=
  guarded (.jm tgt) s (jumpIf s.flag.s tgt s)

/-- JO (R164). -/
def execJo (tgt : Target) (s : State) : Result :=
  guarded (.jo tgt) s (jumpIf s.flag.v tgt s)

/-- JGT (R165). -/
def execJgt (tgt : Target) (s : State) : Result :=
  guarded (.jgt tgt) s (jumpIf (!s.flag.lessEqualSigned) tgt s)

/-- JGE (R166). -/
def execJge (tgt : Target) (s : State) : Result :=
  guarded (.jge tgt) s (jumpIf (!s.flag.lessSigned) tgt s)

/-- JLE (R167). -/
def execJle (tgt : Target) (s : State) : Result :=
  guarded (.jle tgt) s (jumpIf s.flag.lessEqualSigned tgt s)

/-- JLT (R168). -/
def execJlt (tgt : Target) (s : State) : Result :=
  guarded (.jlt tgt) s (jumpIf s.flag.lessSigned tgt s)

/-- JNZ (R169). -/
def execJnz (tgt : Target) (s : State) : Result :=
  guarded (.jnz tgt) s (jumpIf (!s.flag.z) tgt s)

/-- JNC (R170). -/
def execJnc (tgt : Target) (s : State) : Result :=
  guarded (.jnc tgt) s (jumpIf (!s.flag.c) tgt s)

/-- JNM (R171). -/
def execJnm (tgt : Target) (s : State) : Result :=
  guarded (.jnm tgt) s (jumpIf (!s.flag.s) tgt s)

/-- JNO (R172). -/
def execJno (tgt : Target) (s : State) : Result :=
  guarded (.jno tgt) s (jumpIf (!s.flag.v) tgt s)

/-- JHI (R173). -/
def execJhi (tgt : Target) (s : State) : Result :=
  guarded (.jhi tgt) s (jumpIf (!s.flag.lowerOrSame) tgt s)

/-- JLS (R174). -/
def execJls (tgt : Target) (s : State) : Result :=
  guarded (.jls tgt) s (jumpIf s.flag.lowerOrSame tgt s)

/-- JMP (R175). -/
def execJmp (tgt : Target) (s : State) : Result :=
  guarded (.jmp tgt) s (jumpIf true tgt s)

/-- CALL (R176): the target is computed before SP changes; the address after the CALL is pushed. -/
def execCall (tgt : Target) (s : State) : Result :=
  guarded (.call tgt) s <| complete s (s.pc + 4#16) ((push s (s.pc + 4#16)).bind fun t => .value (t.setPc (targetEA s tgt)))

/-- RET (R177). -/
def execRet (s : State) : Result :=
  guarded .ret s <| complete s (s.pc + 2#16) ((pop s).bind fun r => .value (r.2.setPc r.1))

end Sys2Proof.Machine
end

