-- ==== Sys2Proof/Machine/LoadStore.lean ====
section
/-! DEFINITION. NO, LD, ST (40_nop_load_store.md R120 to R122). -/

namespace Sys2Proof.Machine

/-- NO (R120): nothing but the PC. -/
def execNo (s : State) : Result := guarded .no s (.next (s.setPc (s.pc + 2#16)))

/-- What LD does to the flags besides a write of register 15 (R121, `LD_FLAG_POLICY`). -/
def loadFlags (rd : Reg) (s : State) : State :=
  match Setting.ldFlags with
  | .unchanged => s
  | .draw => if rd = .flag then s else s.drawFlags

/-- LD (R121): Rd <- operand. -/
def execLd (rd : Reg) (src : Operand) (s : State) : Result :=
  guarded (.ld rd src) s <| complete s (s.pc + operandSize src)
    ((readOperand s src).bind fun v =>
      .value ((loadFlags rd (s.writeReg rd v)).setPc (s.pc + operandSize src)))

/-- ST (R122): [EA] <- Rd. -/
def execSt (rd : Reg) (dst : StoreOperand) (s : State) : Result :=
  guarded (.st rd dst) s <| complete s (s.pc + storeSize dst)
    ((storeOperand s dst (s.readReg rd)).bind fun t => .value (t.setPc (s.pc + storeSize dst)))

end Sys2Proof.Machine
end

