-- ==== Sys2Proof/Machine/Shift.lean ====
section
/-! DEFINITION. SHLA, SHLL, SHRA, SHRL (42_shift.md R150 to R155). -/

namespace Sys2Proof.Machine

/-- SHLA (R152). -/
def execShla (rd : Reg) (src : Operand) (s : State) : Result :=
  guarded (.shla rd src) s (flagSetting aluShl rd src s)

/-- SHLL (R153): the same result and flags as SHLA. -/
def execShll (rd : Reg) (src : Operand) (s : State) : Result :=
  guarded (.shll rd src) s (flagSetting aluShl rd src s)

/-- SHRA (R154). -/
def execShra (rd : Reg) (src : Operand) (s : State) : Result :=
  guarded (.shra rd src) s (flagSetting aluShra rd src s)

/-- SHRL (R155). -/
def execShrl (rd : Reg) (src : Operand) (s : State) : Result :=
  guarded (.shrl rd src) s (flagSetting aluShrl rd src s)

end Sys2Proof.Machine
end

