-- ==== Sys2Proof/Machine/System.lean ====
section
/-! DEFINITION. RETI, SVC, HALT (45_system.md R200 to R205). -/

namespace Sys2Proof.Machine

/-- RETI (R200, R201). -/
def execReti (s : State) : Result := guarded .reti s (complete s (s.pc + 2#16) (trapReturn s))

/-- SVC (R202): the trap through FFFEh, whose saved PC is the address after the SVC. -/
def execSvc (s : State) : Result := guarded .svc s (takeException .svc (s.pc + 2#16) s)

/-- HALT (R204): privileged; the I flag does not help. -/
def execHalt (s : State) : Result :=
  guarded .halt s (.next { s with halted := true, pc := s.pc + 2#16 })

end Sys2Proof.Machine
end

