-- ==== Sys2Proof/Machine/Dispatch.lean ====
section
/-! DEFINITION. What each instruction does: one arm per constructor, one direct call of a meaning each. -/

namespace Sys2Proof.Machine

/-- The meaning of an instruction in a state whose PC is the address of its first word (10_state.md R30). -/
def exec (i : Instr) (s : State) : Host.Outcome State Fault Refusal :=
  match i with
  | .no => Sys2Proof.Machine.execNo s
  | .ld rd src => Sys2Proof.Machine.execLd rd src s
  | .st rd dst => Sys2Proof.Machine.execSt rd dst s
  | .add rd src => Sys2Proof.Machine.execAdd rd src s
  | .sub rd src => Sys2Proof.Machine.execSub rd src s
  | .cmp rd src => Sys2Proof.Machine.execCmp rd src s
  | .and rd src => Sys2Proof.Machine.execAnd rd src s
  | .or rd src => Sys2Proof.Machine.execOr rd src s
  | .xor rd src => Sys2Proof.Machine.execXor rd src s
  | .adds rd src => Sys2Proof.Machine.execAdds rd src s
  | .mul rd src => Sys2Proof.Machine.execMul rd src s
  | .div rd src => Sys2Proof.Machine.execDiv rd src s
  | .mod rd src => Sys2Proof.Machine.execMod rd src s
  | .shla rd src => Sys2Proof.Machine.execShla rd src s
  | .shll rd src => Sys2Proof.Machine.execShll rd src s
  | .shra rd src => Sys2Proof.Machine.execShra rd src s
  | .shrl rd src => Sys2Proof.Machine.execShrl rd src s
  | .jz tgt => Sys2Proof.Machine.execJz tgt s
  | .jc tgt => Sys2Proof.Machine.execJc tgt s
  | .jm tgt => Sys2Proof.Machine.execJm tgt s
  | .jo tgt => Sys2Proof.Machine.execJo tgt s
  | .jgt tgt => Sys2Proof.Machine.execJgt tgt s
  | .jge tgt => Sys2Proof.Machine.execJge tgt s
  | .jle tgt => Sys2Proof.Machine.execJle tgt s
  | .jlt tgt => Sys2Proof.Machine.execJlt tgt s
  | .jnz tgt => Sys2Proof.Machine.execJnz tgt s
  | .jnc tgt => Sys2Proof.Machine.execJnc tgt s
  | .jnm tgt => Sys2Proof.Machine.execJnm tgt s
  | .jno tgt => Sys2Proof.Machine.execJno tgt s
  | .jhi tgt => Sys2Proof.Machine.execJhi tgt s
  | .jls tgt => Sys2Proof.Machine.execJls tgt s
  | .jmp tgt => Sys2Proof.Machine.execJmp tgt s
  | .call tgt => Sys2Proof.Machine.execCall tgt s
  | .inp rd port => Sys2Proof.Machine.execInp rd port s
  | .out rd port => Sys2Proof.Machine.execOut rd port s
  | .push rd => Sys2Proof.Machine.execPush rd s
  | .pop rd => Sys2Proof.Machine.execPop rd s
  | .ret => Sys2Proof.Machine.execRet s
  | .reti => Sys2Proof.Machine.execReti s
  | .svc => Sys2Proof.Machine.execSvc s
  | .halt => Sys2Proof.Machine.execHalt s

end Sys2Proof.Machine
end

