-- ==== Sys2Proof/WellFormed.lean ====
section
/-! DEFINITION. Which instructions the model admits whatever the state. The types of Sys2Proof/Syntax.lean already
bound every field; what is left are the two register choices the spec refuses in both modes. -/

namespace Sys2Proof

/-- 41_arithmetic_logic.md R133, 42_shift.md R151: an instruction that writes a result and the flags may not have
FLAG as its destination. -/
def destinationOk (rd : Reg) : Bool :=
  match rd with
  | .flag => false
  | _ => true

/-- 44_io_stack.md R194: PUSH and POP may not name register number D, the stack pointer in use, in either mode.
(Number E is refused in user mode only, which is no matter of syntax.) -/
def stackRegOk (rd : Reg) : Bool :=
  match rd with
  | .sp => false
  | _ => true

/-- The instruction is admitted by the model as it stands (41 R133, 44 R194). -/
def Instr.wf (i : Instr) : Bool :=
  match i with
  | .no => true
  | .ld _ _ => true
  | .st _ _ => true
  | .add rd _ => destinationOk rd
  | .sub rd _ => destinationOk rd
  | .cmp _ _ => true
  | .and rd _ => destinationOk rd
  | .or rd _ => destinationOk rd
  | .xor rd _ => destinationOk rd
  | .adds rd _ => destinationOk rd
  | .mul rd _ => destinationOk rd
  | .div rd _ => destinationOk rd
  | .mod rd _ => destinationOk rd
  | .shla rd _ => destinationOk rd
  | .shll rd _ => destinationOk rd
  | .shra rd _ => destinationOk rd
  | .shrl rd _ => destinationOk rd
  | .jz _ => true
  | .jc _ => true
  | .jm _ => true
  | .jo _ => true
  | .jgt _ => true
  | .jge _ => true
  | .jle _ => true
  | .jlt _ => true
  | .jnz _ => true
  | .jnc _ => true
  | .jnm _ => true
  | .jno _ => true
  | .jhi _ => true
  | .jls _ => true
  | .jmp _ => true
  | .call _ => true
  | .inp _ _ => true
  | .out _ _ => true
  | .push rd => stackRegOk rd
  | .pop rd => stackRegOk rd
  | .ret => true
  | .reti => true
  | .svc => true
  | .halt => true

end Sys2Proof
end

