-- ==== Sys2Proof/Decode.lean ====
section
/-! DEFINITION. The decoder (30_encoding.md R80 to R103), total on any bytes and rejecting by name, and after it the
encoder, written from the same tables. -/

namespace Sys2Proof

/-- Why a first word is no instruction the model admits. -/
inductive DecodeError where
  /-- an empty cell of the opcode map, or a jump with condition Dh (30_encoding.md R101) -/
  | unassigned
  /-- a field the source prints as 0h is not zero, or RETI's Rd is not Fh (30_encoding.md R102) -/
  | reservedField
  /-- fewer bytes than the instruction needs; cannot arise in a fetch, which reads memory -/
  | truncated
  deriving DecidableEq, Repr

/-- A value known after the first word, or once a second word is read (30_encoding.md R82). -/
inductive Need (α : Type) where
  | one (a : α)
  | two (f : Word → α)

/-- Build on a decoded operand, of either length. -/
def Need.map {α β : Type} (h : α → β) (n : Need α) : Need β :=
  match n with
  | .one a => .one (h a)
  | .two f => .two (fun w => h (f w))

/-- The outcome of looking at the first word. -/
abbrev FirstWord (α : Type) := Except DecodeError (Need α)

/-- `FirstWord` of a bigger term. -/
def FirstWord.map {α β : Type} (h : α → β) (r : FirstWord α) : FirstWord β :=
  match r with
  | .ok n => .ok (n.map h)
  | .error e => .error e

/-! ### Register numbers (10_state.md R22) -/

/-- The register a 4-bit field names. -/
def Reg.ofCode (c : BitVec 4) : Reg :=
  if h : c.toNat < 12 then .g ⟨c.toNat, h⟩
  else if c = 0xC#4 then .fp
  else if c = 0xD#4 then .sp
  else if c = 0xE#4 then .usp
  else .flag

/-- The field that names a register. -/
def Reg.code (r : Reg) : BitVec 4 :=
  match r with
  | .g n => BitVec.ofNat 4 n.val
  | .fp => 0xC#4
  | .sp => 0xD#4
  | .usp => 0xE#4
  | .flag => 0xF#4

/-! ### Operand forms (30_encoding.md R86) -/

/-- A form whose low field is printed 0h (30_encoding.md R102). -/
def lowZero {α : Type} (lo : BitVec 4) (n : Need α) : FirstWord α :=
  if lo = 0#4 then .ok n else .error .reservedField

/-- The eight forms, by OP bits 10..8. -/
def decodeOperand (form : BitVec 3) (lo : BitVec 4) : FirstWord Operand :=
  match form with
  | 0#3 => lowZero lo (.two .direct)
  | 1#3 => .ok (.two fun w => .indexed w (Reg.ofCode lo))
  | 2#3 => lowZero lo (.two .imm)
  | 3#3 => .ok (.one (.fpRel lo))
  | 4#3 => .ok (.one (.reg (Reg.ofCode lo)))
  | 5#3 => .ok (.one (.imm4 lo))
  | 6#3 => .ok (.one (.indirect (Reg.ofCode lo)))
  | 7#3 => .ok (.one (.byteIndirect (Reg.ofCode lo)))

/-- The five forms of ST; 2, 4 and 5 are unassigned (30_encoding.md R101). -/
def decodeStoreOperand (form : BitVec 3) (lo : BitVec 4) : FirstWord StoreOperand :=
  match form with
  | 0#3 => lowZero lo (.two .direct)
  | 1#3 => .ok (.two fun w => .indexed w (Reg.ofCode lo))
  | 3#3 => .ok (.one (.fpRel lo))
  | 6#3 => .ok (.one (.indirect (Reg.ofCode lo)))
  | 7#3 => .ok (.one (.byteIndirect (Reg.ofCode lo)))
  | _ => .error .unassigned

/-- The two forms of jumps and CALL. -/
def decodeTarget (form : BitVec 3) (lo : BitVec 4) : FirstWord Target :=
  match form with
  | 0#3 => lowZero lo (.two .direct)
  | 1#3 => .ok (.two fun w => .indexed w (Reg.ofCode lo))
  | _ => .error .unassigned

/-- The two forms of IN and OUT. -/
def decodePort (form : BitVec 3) (lo : BitVec 4) : FirstWord PortOperand :=
  match form with
  | 0#3 => lowZero lo (.two .direct)
  | 6#3 => .ok (.one (.indirect (Reg.ofCode lo)))
  | _ => .error .unassigned

/-! ### The opcode map (30_encoding.md R97, R99) -/

/-- The fifteen mnemonics with all eight forms, by OP bits 15..11. -/
def binaryOp (op5 : BitVec 5) : Option (Reg → Operand → Instr) :=
  match op5 with
  | 0b00001#5 => some .ld
  | 0b00011#5 => some .add
  | 0b00100#5 => some .sub
  | 0b00101#5 => some .cmp
  | 0b00110#5 => some .and
  | 0b00111#5 => some .or
  | 0b01000#5 => some .xor
  | 0b01001#5 => some .adds
  | 0b01010#5 => some .mul
  | 0b01011#5 => some .div
  | 0b01100#5 => some .mod
  | 0b10000#5 => some .shla
  | 0b10001#5 => some .shll
  | 0b10010#5 => some .shra
  | 0b10011#5 => some .shrl
  | _ => none

/-- The jump of a condition field; Dh has none (30_encoding.md R99). -/
def jumpOp (cond : BitVec 4) : Option (Target → Instr) :=
  match cond with
  | 0x0#4 => some .jz
  | 0x1#4 => some .jc
  | 0x2#4 => some .jm
  | 0x3#4 => some .jo
  | 0x4#4 => some .jgt
  | 0x5#4 => some .jge
  | 0x6#4 => some .jle
  | 0x7#4 => some .jlt
  | 0x8#4 => some .jnz
  | 0x9#4 => some .jnc
  | 0xA#4 => some .jnm
  | 0xB#4 => some .jno
  | 0xC#4 => some .jhi
  | 0xE#4 => some .jls
  | 0xF#4 => some .jmp
  | _ => none

/-- An instruction without operand word: Rd and the low field must be as printed (30_encoding.md R96, R102). -/
def fixedFields (rd lo : BitVec 4) (printed : BitVec 4) (i : Instr) : FirstWord Instr :=
  if rd = printed ∧ lo = 0#4 then .ok (.one i) else .error .reservedField

/-- PUSH and POP: the low field is printed 0h (30_encoding.md R96). -/
def oneRegister (rd lo : BitVec 4) (mk : Reg → Instr) : FirstWord Instr :=
  lowZero lo (.one (mk (Reg.ofCode rd)))

/-- CALL: Rd is printed 0h (30_encoding.md R98). The form is looked up first (R103). -/
def callFields (form : BitVec 3) (rd lo : BitVec 4) : FirstWord Instr :=
  match decodeTarget form lo with
  | .ok n => if rd = 0#4 then .ok (n.map .call) else .error .reservedField
  | .error e => .error e

/-- A jump: an unassigned form, then an unassigned condition, then the fixed fields (30_encoding.md R103). -/
def jumpFields (form : BitVec 3) (cond lo : BitVec 4) : FirstWord Instr :=
  match form, jumpOp cond with
  | 0#3, some mk => FirstWord.map mk (decodeTarget 0#3 lo)
  | 1#3, some mk => FirstWord.map mk (decodeTarget 1#3 lo)
  | _, _ => .error .unassigned

/-- Decoding of the fields of a first word, in the order of 30_encoding.md R103. -/
def decodeFields (op5 : BitVec 5) (form : BitVec 3) (rd lo : BitVec 4) : FirstWord Instr :=
  match binaryOp op5 with
  | some mk => FirstWord.map (mk (Reg.ofCode rd)) (decodeOperand form lo)
  | none =>
    match op5, form with
    | 0b00000#5, 0#3 => fixedFields rd lo 0x0#4 .no
    | 0b00010#5, f => FirstWord.map (.st (Reg.ofCode rd)) (decodeStoreOperand f lo)
    | 0b10100#5, f => jumpFields f rd lo
    | 0b10101#5, f => callFields f rd lo
    | 0b10110#5, f => FirstWord.map (.inp (Reg.ofCode rd)) (decodePort f lo)
    | 0b10111#5, f => FirstWord.map (.out (Reg.ofCode rd)) (decodePort f lo)
    | 0b11000#5, 0#3 => oneRegister rd lo .push
    | 0b11000#5, 4#3 => oneRegister rd lo .pop
    | 0b11010#5, 0#3 => fixedFields rd lo 0x0#4 .ret
    | 0b11010#5, 4#3 => fixedFields rd lo 0xF#4 .reti
    | 0b11110#5, 0#3 => fixedFields rd lo 0x0#4 .svc
    | 0b11111#5, 7#3 => fixedFields rd lo 0x0#4 .halt
    | _, _ => .error .unassigned

/-- OP bits 15..11 of a first word (30_encoding.md R80). -/
def opField (w : Word) : BitVec 5 := w.extractLsb' 11 5

/-- OP bits 10..8, the form. -/
def formField (w : Word) : BitVec 3 := w.extractLsb' 8 3

/-- The Rd field, bits 7..4. -/
def rdField (w : Word) : BitVec 4 := w.extractLsb' 4 4

/-- The low field, bits 3..0: Rx, Rs, I4 or D4. -/
def loField (w : Word) : BitVec 4 := w.extractLsb' 0 4

/-- Everything the first word says: the whole instruction, or what it becomes with a second word. -/
def decodeFirst (w1 : Word) : FirstWord Instr :=
  decodeFields (opField w1) (formField w1) (rdField w1) (loField w1)

/-- Decoding a list of words: the instruction and the words after it. -/
def decodeWords (ws : List Word) : Except DecodeError (Instr × List Word) :=
  match ws with
  | [] => .error .truncated
  | w1 :: rest =>
    match decodeFirst w1, rest with
    | .error e, _ => .error e
    | .ok (.one i), rest => .ok (i, rest)
    | .ok (.two f), w2 :: rest => .ok (f w2, rest)
    | .ok (.two _), [] => .error .truncated

/-- Bytes as words (20_memory.md R54); a last odd byte makes no word. -/
def wordsOfBytes (bs : List Byte) : List Word :=
  match bs with
  | b0 :: b1 :: rest => wordOfBytes b0 b1 :: wordsOfBytes rest
  | _ => []

/-- The decoder on bytes as they lie in memory. -/
def decode (bs : List Byte) : Except DecodeError (Instr × List Word) :=
  decodeWords (wordsOfBytes bs)

/-! ### The encoder -/

/-- A first word from its four fields (30_encoding.md R80). -/
def mkFirst (op5 : BitVec 5) (form : BitVec 3) (rd lo : BitVec 4) : Word :=
  op5 ++ form ++ rd ++ lo

/-- Form number, low field and second word of an operand (30_encoding.md R86). -/
def Operand.fields (o : Operand) : BitVec 3 × BitVec 4 × List Word :=
  match o with
  | .direct dsp => (0#3, 0#4, [dsp])
  | .indexed dsp rx => (1#3, rx.code, [dsp])
  | .imm v => (2#3, 0#4, [v])
  | .fpRel d4 => (3#3, d4, [])
  | .reg rs => (4#3, rs.code, [])
  | .imm4 i4 => (5#3, i4, [])
  | .indirect rx => (6#3, rx.code, [])
  | .byteIndirect rx => (7#3, rx.code, [])

/-- The same for ST. -/
def StoreOperand.fields (o : StoreOperand) : BitVec 3 × BitVec 4 × List Word :=
  match o with
  | .direct dsp => (0#3, 0#4, [dsp])
  | .indexed dsp rx => (1#3, rx.code, [dsp])
  | .fpRel d4 => (3#3, d4, [])
  | .indirect rx => (6#3, rx.code, [])
  | .byteIndirect rx => (7#3, rx.code, [])

/-- The same for jumps and CALL. -/
def Target.fields (t : Target) : BitVec 3 × BitVec 4 × List Word :=
  match t with
  | .direct dsp => (0#3, 0#4, [dsp])
  | .indexed dsp rx => (1#3, rx.code, [dsp])

/-- The same for IN and OUT. -/
def PortOperand.fields (p : PortOperand) : BitVec 3 × BitVec 4 × List Word :=
  match p with
  | .direct port => (0#3, 0#4, [port])
  | .indirect rx => (6#3, rx.code, [])

/-- The words of an instruction with the given OP row, Rd field and operand fields. -/
def emit (op5 : BitVec 5) (rd : BitVec 4) (f : BitVec 3 × BitVec 4 × List Word) : List Word :=
  mkFirst op5 f.1 rd f.2.1 :: f.2.2

/-- The words of an instruction, first word first (30_encoding.md R97 to R99). -/
def encode (i : Instr) : List Word :=
  match i with
  | .no => emit 0b00000#5 0x0#4 (0#3, 0#4, [])
  | .ld rd o => emit 0b00001#5 rd.code o.fields
  | .st rd o => emit 0b00010#5 rd.code o.fields
  | .add rd o => emit 0b00011#5 rd.code o.fields
  | .sub rd o => emit 0b00100#5 rd.code o.fields
  | .cmp rd o => emit 0b00101#5 rd.code o.fields
  | .and rd o => emit 0b00110#5 rd.code o.fields
  | .or rd o => emit 0b00111#5 rd.code o.fields
  | .xor rd o => emit 0b01000#5 rd.code o.fields
  | .adds rd o => emit 0b01001#5 rd.code o.fields
  | .mul rd o => emit 0b01010#5 rd.code o.fields
  | .div rd o => emit 0b01011#5 rd.code o.fields
  | .mod rd o => emit 0b01100#5 rd.code o.fields
  | .shla rd o => emit 0b10000#5 rd.code o.fields
  | .shll rd o => emit 0b10001#5 rd.code o.fields
  | .shra rd o => emit 0b10010#5 rd.code o.fields
  | .shrl rd o => emit 0b10011#5 rd.code o.fields
  | .jz t => emit 0b10100#5 0x0#4 t.fields
  | .jc t => emit 0b10100#5 0x1#4 t.fields
  | .jm t => emit 0b10100#5 0x2#4 t.fields
  | .jo t => emit 0b10100#5 0x3#4 t.fields
  | .jgt t => emit 0b10100#5 0x4#4 t.fields
  | .jge t => emit 0b10100#5 0x5#4 t.fields
  | .jle t => emit 0b10100#5 0x6#4 t.fields
  | .jlt t => emit 0b10100#5 0x7#4 t.fields
  | .jnz t => emit 0b10100#5 0x8#4 t.fields
  | .jnc t => emit 0b10100#5 0x9#4 t.fields
  | .jnm t => emit 0b10100#5 0xA#4 t.fields
  | .jno t => emit 0b10100#5 0xB#4 t.fields
  | .jhi t => emit 0b10100#5 0xC#4 t.fields
  | .jls t => emit 0b10100#5 0xE#4 t.fields
  | .jmp t => emit 0b10100#5 0xF#4 t.fields
  | .call t => emit 0b10101#5 0x0#4 t.fields
  | .inp rd p => emit 0b10110#5 rd.code p.fields
  | .out rd p => emit 0b10111#5 rd.code p.fields
  | .push rd => emit 0b11000#5 rd.code (0#3, 0#4, [])
  | .pop rd => emit 0b11000#5 rd.code (4#3, 0#4, [])
  | .ret => emit 0b11010#5 0x0#4 (0#3, 0#4, [])
  | .reti => emit 0b11010#5 0xF#4 (4#3, 0#4, [])
  | .svc => emit 0b11110#5 0x0#4 (0#3, 0#4, [])
  | .halt => emit 0b11111#5 0x0#4 (7#3, 0#4, [])

/-- Length of the instruction in bytes (30_encoding.md R82), as a word for `next_pc`. -/
def Instr.size (i : Instr) : Word := BitVec.ofNat 16 (2 * (encode i).length)

/-! ### The host's entry point -/

/-- The two words of an instruction whose table bits are `w` (bit 0 the least significant of the first word); bits
from `nbits` up are 0. -/
def tableWords (nbits w : Nat) : Word × Word :=
  let v := w % 2 ^ nbits
  (BitVec.ofNat 16 v, BitVec.ofNat 16 (v / 65536))

/-- The bytes of a word as the hardware stores them, the lower address first (20_memory.md R54). -/
def bytesOfWord (w : Word) : List Byte := [firstByte w, secondByte w]

/-- What the decoder reads from an instruction with the table's bits `w`. -/
def decodeTableWord (nbits w : Nat) : Option Instr :=
  let (w1, w2) := tableWords nbits w
  match decode (bytesOfWord w1 ++ bytesOfWord w2) with
  | .ok (i, _) => some i
  | .error _ => none

end Sys2Proof
end

