-- ==== Sys2Proof/Machine/Fetch.lean ====
section
/-! DEFINITION. Fetching and decoding an instruction (30_encoding.md R84, R103), recognising an interrupt
(60_exceptions.md R216, R217), and placing an instruction where the next fetch reads it. -/

namespace Sys2Proof.Machine

/-- A rejected first word (30_encoding.md R101, R102): under `ILLEGAL_POLICY` an unassigned one faults or is raised. -/
def rejected (e : DecodeError) (w : Word) : Access Instr :=
  match e with
  | .unassigned =>
    match Setting.illegal with
    | .fault => .fault (.illegalInstruction w)
    | .raise => .raise .illegalInstruction
  | .reservedField => .refused (.reservedField w)
  | .truncated => .refused (.reservedField w)

/-- The instruction at the PC, the second word read only if the first asks for it (30_encoding.md R84, R103). -/
def fetch (s : State) : Access Instr :=
  (readWord s s.pc).bind fun w1 =>
    match decodeFirst w1 with
    | .error e => rejected e w1
    | .ok (.one i) => .value i
    | .ok (.two f) => (readWord s (s.pc + 2#16)).bind fun w2 => .value (f w2)

/-- The pending requests, by rising vector address. -/
def State.pending (s : State) : List IntSource := IntSource.all.filter s.requested

/-- The request taken at this boundary, if any (60_exceptions.md R216, R217). -/
def State.recognised (s : State) : Option IntSource :=
  if s.flag.e then
    match s.pending, Setting.intPriority with
    | [], _ => none
    | k :: _, .lowest => some k
    | k :: ks, .any => some ((k :: ks).getD (Config.freeChoice s.draws % (ks.length + 1)) k)
  else none

/-- Under `INT_PRIORITY = any` the choice takes a free value. -/
def State.choseInterrupt (s : State) : State :=
  match Setting.intPriority with
  | .lowest => s
  | .any => s.tookDraw

/-! ### Placing an instruction -/

/-- The two words of `tableWords`, as four bytes from an address on. -/
def placeWords (m : Memory) (a : Word) (ws : Word × Word) : Memory :=
  (((m.write a.toNat (firstByte ws.1)).write (a + 1#16).toNat (secondByte ws.1)).write (a + 2#16).toNat
    (firstByte ws.2)).write (a + 3#16).toNat (secondByte ws.2)

/-- The even address at or below `a`. -/
def evenAddress (a : Word) : Word := a &&& 0xFFFE#16

/-- Whether any of the four bytes from `a` on shows the IPL ROM. -/
def State.romIn (s : State) (a : Word) : Bool := s.inRom a || s.inRom (a + 1#16) || s.inRom (a + 2#16) || s.inRom (a + 3#16)

/-- The state whose next step runs the instruction with the table's bits `w` (log 6): the instruction in RAM at the
PC, the ROM detached if it covers that place, and nothing that keeps the next step from fetching there: not halted,
no request that would be taken first, the MMU off, the PC even. -/
def State.placeInstruction (s : State) (nbits w : Nat) : State :=
  { s with
    pc := evenAddress s.pc
    halted := false
    irq := if s.flag.e then 0 else s.irq
    iplAttached := s.iplAttached && !s.romIn (evenAddress s.pc)
    mmu := { s.mmu with enabled := false }
    mem := placeWords s.mem (evenAddress s.pc) (tableWords nbits w) }

end Sys2Proof.Machine
end

