-- ==== Sys2Proof/Machine/Step.lean ====
section
/-! DEFINITION. One step of the machine (40_nop_load_store.md R123, 60_exceptions.md R216). -/

namespace Sys2Proof.Machine

/-- One step: a halted machine has none (45_system.md R205); a request is taken before the fetch; else the instruction
at the PC runs. An exception of the fetch itself belongs to the instruction at the PC (30_encoding.md R103); under
`FAULT_SAVED_PC = next` it would save PC + 2, though no word was read (DESIGN CHOICE, unsafe under that setting: log 52). -/
def step (s : State) : Host.Outcome State Fault Refusal :=
  if s.halted then .fault .halted
  else
    match s.recognised with
    | some k => takeInterrupt k s.choseInterrupt
    | none =>
      match fetch s with
      | .value i => exec i s
      | .raise e => takeException e (s.pc + 2#16) s
      | .fault f => .fault f
      | .refused r => .refused r

/-- `s` with an instruction stored where the next step fetches it (log 6). -/
def State.withFetchWord (s : State) (nbits w : Nat) : State := s.placeInstruction nbits w

end Sys2Proof.Machine
end

