-- ==== Sys2Proof/Machine/HostMoves.lean ====
section
/-! DEFINITION. What the outside world can do to the machine between two steps (92_eei_decisions.md, host table): raise
an interrupt request (60_exceptions.md R213, R214), write memory or a register (20_memory.md R70, 60 R259), reset
(70_reset_and_hazards.md R270). -/

namespace Sys2Proof.Machine

/-- The registers the console can name: its rotary switch has a place for PC and none for USP (60_exceptions.md R251,
R259). -/
inductive ConsoleReg where
  | g (n : Fin 12)
  | fp
  | sp
  | pc
  | flag
  deriving DecidableEq, Repr

/-- A register written from outside; all eight bits of FLAG are taken (log 39). -/
def State.consoleWrite (s : State) (r : ConsoleReg) (v : Word) : State :=
  match r with
  | .g n => { s with g := s.g.set n v }
  | .fp => { s with fp := v }
  | .sp => s.setSp v
  | .pc => s.setPc v
  | .flag => s.setFlag (Flag.ofWord v)

/-- A move of the host. -/
inductive HostMove where
  /-- a device raises its request -/
  | raiseRequest (k : IntSource)
  /-- the micro-SD controller or the console writes a byte of RAM -/
  | writeByte (addr : Word) (b : Byte)
  /-- the console writes a register -/
  | writeReg (r : ConsoleReg) (v : Word)
  /-- a reset -/
  | reset
  deriving DecidableEq, Repr

/-- The state after a reset: RN4020-RAM is not affected (60_exceptions.md R256), and neither are the model's own
counters, which are no part of the machine. -/
def State.resetFrom (s : State) : State :=
  { State.reset with
    io := { Io.reset with rn4020Ram := s.io.rn4020Ram }
    draws := s.draws
    outEvents := s.outEvents }

/-- The state after a move. A request is raised only while its enable bit is 1 (60_exceptions.md R214). -/
def hostMove (m : HostMove) (s : State) : State :=
  match m with
  | .raiseRequest k => if s.io.intEnable k then s.setIrq (setRequest s.irq k) else s
  | .writeByte addr b => s.setMem (s.mem.write addr.toNat b)
  | .writeReg r v => s.consoleWrite r v
  | .reset => s.resetFrom

end Sys2Proof.Machine
end

