-- ==== Sys2Proof/Safety.lean ====
section
/-! DEFINITION. What a safe run is: the invariant of the machine, and the states that steps and host moves reach. -/

namespace Sys2Proof

open Sys2Proof.Machine

/-- What every step and every host move keeps: memory in its canonical form, and the MMU off, since the model refuses
to enable it (20_memory.md R66). -/
structure Machine.State.Inv (s : State) : Prop where
  memory_canonical : s.mem.wf = true
  mmu_off : s.mmu.enabled = false

/-- The states a run reaches: from reset, by steps of the CPU and moves of the host between them. -/
inductive Machine.Reachable : State → Prop where
  | reset : Reachable State.reset
  | step {s t : State} : Reachable s → Machine.step s = .next t → Reachable t
  | move {s : State} (m : HostMove) : Reachable s → Reachable (hostMove m s)

/-- The outcome is no model fault: it goes on or is refused. -/
def Machine.isFault (r : Result) : Bool :=
  match r with
  | .fault _ => true
  | _ => false

end Sys2Proof
end

