-- ==== Sys2Proof/Certificates/Slice0/Obligations.lean ====
section
/-! DEFINITION. The statements about the TaC model for the provers. OBLIGATIONS.json lists them with the rules of spec/
they rest on. `s.readReg`, `readOperand`, `targetEA`, `storeEA` and `portAddr` are the model's own; the statements about
registers and operand forms say what they are. -/

open Sys2Proof Sys2Proof.Machine

/-! ### Encoding (30_encoding.md) -/

/-- Decoding the words of any instruction gives it back, with every operand at every value, and leaves the words after
it alone. -/
def Obligations.DecodeOfEncodeGivesTheInstruction : Prop :=
  ∀ (i : Instr) (rest : List Word), decodeWords (encode i ++ rest) = .ok (i, rest)

/-- Each word has one meaning: what decodes is the encoding of what it decodes to. -/
def Obligations.EncodeOfDecodeGivesTheWords : Prop :=
  ∀ (ws rest : List Word) (i : Instr), decodeWords ws = .ok (i, rest) → encode i ++ rest = ws

/-- Words written out from the spec's own encodings (95_test_vectors.md E1, E5, 2.7, 2.9) decode to what they stand for. -/
def Obligations.WrittenOutWordsDecode : Prop :=
  decodeWords [0x0912#16, 0x0002#16] = .ok (.ld (.g 1) (.indexed 0x0002#16 (.g 2)), []) ∧
  decodeWords [0x0B1F#16] = .ok (.ld (.g 1) (.fpRel 0xF#4), []) ∧
  decodeWords [0x1723#16] = .ok (.st (.g 2) (.byteIndirect (.g 3)), []) ∧
  decodeWords [0x2515#16] = .ok (.sub (.g 1) (.imm4 0x5#4), []) ∧
  decodeWords [0x9D11#16] = .ok (.shrl (.g 1) (.imm4 0x1#4), []) ∧
  decodeWords [0xA1F1#16, 0x0000#16] = .ok (.jmp (.indexed 0x0000#16 (.g 1)), []) ∧
  decodeWords [0xB800#16, 0x00A0#16] = .ok (.out (.g 0) (.direct 0x00A0#16), []) ∧
  decodeWords [0xC4F0#16] = .ok (.pop .flag, []) ∧
  decodeWords [0xD4F0#16] = .ok (.reti, []) ∧
  decodeWords [0xFF00#16] = .ok (.halt, [])

/-- Exactly the first words of the list of unassigned opcodes, and the jumps with condition Dh, decode to nothing; a
step that fetches one, no interrupt being taken, is the model fault illegalInstruction (92 D27, log 9). -/
def Obligations.UnassignedWordsFault : Prop :=
  ∀ (w : Word) (op cond : Nat), op = w.toNat / 256 → cond = w.toNat / 16 % 16 →
    (decodeFirst w = .error .unassigned ↔
      (0x01 ≤ op ∧ op ≤ 0x07) ∨ op = 0x12 ∨ op = 0x14 ∨ op = 0x15 ∨ (0x68 ≤ op ∧ op ≤ 0x7F) ∨
      (0xA2 ≤ op ∧ op ≤ 0xA7) ∨ (0xAA ≤ op ∧ op ≤ 0xAF) ∨ (0xB1 ≤ op ∧ op ≤ 0xB5) ∨ op = 0xB7 ∨
      (0xB9 ≤ op ∧ op ≤ 0xBD) ∨ op = 0xBF ∨ (0xC1 ≤ op ∧ op ≤ 0xC3) ∨ (0xC5 ≤ op ∧ op ≤ 0xCF) ∨
      (0xD1 ≤ op ∧ op ≤ 0xD3) ∨ (0xD5 ≤ op ∧ op ≤ 0xEF) ∨ (0xF1 ≤ op ∧ op ≤ 0xFE) ∨
      ((op = 0xA0 ∨ op = 0xA1) ∧ cond = 0xD)) ∧
    ∀ s : State, s.halted = false → (s.flag.e = false ∨ s.irq = 0#10) → readWord s s.pc = .value w →
      decodeFirst w = .error .unassigned → step s = .fault (.illegalInstruction w)

/-- Exactly the first words that differ from a canonical one in a field printed 0h (RETI's Rd: Fh) are rejected for
it; a step that fetches one, no interrupt being taken, is refused (92 D28, log 10). -/
def Obligations.ReservedFieldWordsRefused : Prop :=
  ∀ (w : Word) (op rd lo : Nat), op = w.toNat / 256 → rd = w.toNat / 16 % 16 → lo = w.toNat % 16 →
    (decodeFirst w = .error .reservedField ↔
      ((op = 0x00 ∨ op = 0xD0 ∨ op = 0xF0 ∨ op = 0xFF ∨ op = 0xA8) ∧ (rd ≠ 0 ∨ lo ≠ 0)) ∨
      (op = 0xD4 ∧ (rd ≠ 0xF ∨ lo ≠ 0)) ∨
      (op = 0xA9 ∧ rd ≠ 0) ∨
      (op = 0xA0 ∧ rd ≠ 0xD ∧ lo ≠ 0) ∨
      ((op = 0xC0 ∨ op = 0xC4 ∨ op = 0x10 ∨ op = 0xB0 ∨ op = 0xB8) ∧ lo ≠ 0) ∨
      ((op % 8 = 0 ∨ op % 8 = 2) ∧
        (op / 8 = 1 ∨ (3 ≤ op / 8 ∧ op / 8 ≤ 12) ∨ (16 ≤ op / 8 ∧ op / 8 ≤ 19)) ∧ lo ≠ 0)) ∧
    ∀ s : State, s.halted = false → (s.flag.e = false ∨ s.irq = 0#10) → readWord s s.pc = .value w →
      decodeFirst w = .error .reservedField → step s = .refused (.reservedField w)

/-! ### A step -/

/-- When the words at the PC decode to an instruction, and the machine is neither halted nor about to take an
interrupt, the step is the meaning of that instruction in that state: nothing is added around it. The second word is
asked for only when the instruction has one. -/
def Obligations.StepRunsTheDecodedInstruction : Prop :=
  ∀ (s : State) (i : Instr) (w1 : Word) (ws : List Word),
    s.halted = false → (s.flag.e = false ∨ s.irq = 0#10) →
    readWord s s.pc = .value w1 → (∀ w2, ws = [w2] → readWord s (s.pc + 2#16) = .value w2) →
    decodeWords (w1 :: ws) = .ok (i, []) → step s = exec i s

/-- The instruction placed for the next fetch is the one the next step runs (log 6). -/
def Obligations.PlacedInstructionRunsNext : Prop :=
  ∀ (s : State) (w : Nat) (i : Instr), decodeTableWord 32 w = some i →
    step (s.withFetchWord 32 w) = exec i (s.withFetchWord 32 w)

/-- With E = 1 the lowest pending request is taken before the fetch, with the current PC saved, its vector FFE0h + 2k,
and its request cleared; the others stay pending (92 D13, log 20). -/
def Obligations.LowestPendingInterruptTaken : Prop :=
  ∀ (s : State) (k : IntSource), s.halted = false → s.flag.e = true →
    s.irq.getLsbD k.index = true → (∀ j, j < k.index → s.irq.getLsbD j = false) →
    ∃ irq' : BitVec 10, (∀ j, irq'.getLsbD j = (s.irq.getLsbD j && decide (j ≠ k.index))) ∧
      step s = trapEntry (0xFFE0#16 + 2#16 * BitVec.ofNat 16 k.index) s.pc { s with irq := irq' }

/-- With E = 0 no interrupt is taken and every request stays pending, whatever instruction runs. -/
def Obligations.RequestsWaitWhileDisabled : Prop :=
  ∀ s t : State, s.flag.e = false → step s = .next t → t.irq = s.irq

/-! ### Registers -/

/-- The sixteen register numbers and what each reads. -/
def Obligations.RegisterNumbersRead : Prop :=
  (∀ n : Fin 12, Reg.ofCode (BitVec.ofNat 4 n.val) = .g n) ∧ Reg.ofCode 0xC#4 = .fp ∧ Reg.ofCode 0xD#4 = .sp ∧
  Reg.ofCode 0xE#4 = .usp ∧ Reg.ofCode 0xF#4 = .flag ∧
  ∀ s : State,
    (∀ n : Fin 12, s.readReg (.g n) = s.g[n]) ∧
    s.readReg .fp = s.fp ∧
    s.readReg .sp = (if s.flag.p = true then s.ssp else s.usp) ∧
    s.readReg .usp = s.usp ∧
    ((s.readReg .flag).extractLsb' 8 8 = 0#8 ∧
      (s.readReg .flag).getLsbD 7 = s.flag.e ∧ (s.readReg .flag).getLsbD 6 = s.flag.p ∧
      (s.readReg .flag).getLsbD 5 = s.flag.i ∧ (s.readReg .flag).getLsbD 4 = s.flag.u ∧
      (s.readReg .flag).getLsbD 3 = s.flag.v ∧ (s.readReg .flag).getLsbD 2 = s.flag.c ∧
      (s.readReg .flag).getLsbD 1 = s.flag.s ∧ (s.readReg .flag).getLsbD 0 = s.flag.z)

/-- A register written reads as written, under each number that names it, and every other register as before: in user
mode numbers D and E are one register. The write leaves everything else of the machine alone: number D writes the bank
that P selects. -/
def Obligations.RegisterWrites : Prop :=
  ∀ (s : State) (v : Word),
    (∀ r x : Reg, r ≠ .flag → (s.writeReg r v).readReg x =
      if x = r ∨ (s.flag.p = false ∧ ((r = .sp ∧ x = .usp) ∨ (r = .usp ∧ x = .sp))) then v else s.readReg x) ∧
    (∀ n : Fin 12, s.writeReg (.g n) v = { s with g := s.g.set n v }) ∧
    s.writeReg .fp v = { s with fp := v } ∧
    (s.flag.p = true → s.writeReg .sp v = { s with ssp := v }) ∧
    (s.flag.p = false → s.writeReg .sp v = { s with usp := v }) ∧
    s.writeReg .usp v = { s with usp := v } ∧
    s.writeReg .flag v = { s with flag := s.flag.write v }

/-- A write of register 15 takes all eight bits in privileged mode, and only U V C S Z in user mode (92 D16, log 24). -/
def Obligations.FlagWriteByMode : Prop :=
  ∀ (f : Flag) (w : Word),
    (f.write w).u = w.getLsbD 4 ∧ (f.write w).v = w.getLsbD 3 ∧ (f.write w).c = w.getLsbD 2 ∧
    (f.write w).s = w.getLsbD 1 ∧ (f.write w).z = w.getLsbD 0 ∧
    (f.p = true → (f.write w).e = w.getLsbD 7 ∧ (f.write w).p = w.getLsbD 6 ∧ (f.write w).i = w.getLsbD 5) ∧
    (f.p = false → (f.write w).e = f.e ∧ (f.write w).p = f.p ∧ (f.write w).i = f.i)

/-! ### Memory -/

/-- A word written at an even address outside the attached ROM stands high byte first, reads back, and changes no other
byte, of the RAM that an attached ROM hides either, and nothing else of the machine (92 D1, log 7). A word read at an even
address of any state is its byte and the byte after it; a read of a byte without a value is the model fault
unwrittenMemory, and so is an operand, a pop or a fetch that needs it (92 D36, log 4). -/
def Obligations.WordWriteReadsBack : Prop :=
  ∀ (s : State) (a : Word), s.mmu.enabled = false →
    (∀ v, a.toNat % 2 = 0 → s.inRom a = false →
      ∃ t, writeWord s a v = .value t ∧
        t.byteAt? a = some (v.extractLsb' 8 8) ∧ t.byteAt? (a + 1#16) = some (v.extractLsb' 0 8) ∧
        readWord t a = .value v ∧
        (∀ x, x ≠ a → x ≠ a + 1#16 → t.byteAt? x = s.byteAt? x ∧
          Memory.read? t.mem x.toNat = Memory.read? s.mem x.toNat) ∧
        t = { s with mem := t.mem }) ∧
    (∀ b, s.byteAt? a = some b → readByte s a = .value b) ∧
    (s.byteAt? a = none → readByte s a = .fault (.unwrittenMemory a)) ∧
    (∀ b0 b1, a.toNat % 2 = 0 → s.byteAt? a = some b0 → s.byteAt? (a + 1#16) = some b1 →
      readWord s a = .value (b0 ++ b1)) ∧
    (∀ x, a.toNat % 2 = 0 → (s.byteAt? a = none ∧ x = a) ∨
        ((s.byteAt? a).isSome = true ∧ s.byteAt? (a + 1#16) = none ∧ x = a + 1#16) →
      readWord s a = .fault (.unwrittenMemory x) ∧
      (∀ rd src, readOperand s src = readWord s a → exec (.ld rd src) s = .fault (.unwrittenMemory x)) ∧
      (s.readReg .sp = a → exec .ret s = .fault (.unwrittenMemory x) ∧ exec .reti s = .fault (.unwrittenMemory x)) ∧
      (s.pc = a → s.halted = false → (s.flag.e = false ∨ s.irq = 0#10) → step s = .fault (.unwrittenMemory x)))

/-- A 16-bit access at an odd address raises MemoryProtectionViolation with cause badAddr, reading or writing, and the
instruction takes that exception from the state it began in: cause and address are recorded for I/O A4h and A2h and the
trap goes through FFF6h with the address of the instruction saved. So do the fetch at an odd PC, every instruction that
reads a memory operand, ST, CALL, PUSH, RET, RETI and POP. With SSP odd a trap entry is itself a model fault (the setting
`raise` of MISALIGNED_POLICY is the model's choice, log 8; the saved PC, log 19; log 42). An odd store into the attached
ROM raises too: that the alignment comes before the ROM's refusal is the model's choice, log 48. -/
def Obligations.OddWordAccessRaises : Prop :=
  ∀ (s : State) (a : Word) (entry : Result),
    entry = trapEntry 0xFFF6#16 s.pc { s with mmu := { s.mmu with cause := 0x0002#16, violAddr := a } } →
    (∀ next, takeException (.memoryProtection .badAddr a) next s = entry) ∧
    (s.mmu.enabled = false → s.ssp.toNat % 2 = 1 → ∀ vec saved, trapEntry vec saved s = .fault .insideTrapEntry) ∧
    (s.mmu.enabled = false → a.toNat % 2 = 1 →
      readWord s a = .raise (.memoryProtection .badAddr a) ∧
      (∀ v, writeWord s a v = .raise (.memoryProtection .badAddr a)) ∧
      (s.pc = a → s.halted = false → (s.flag.e = false ∨ s.irq = 0#10) → step s = entry) ∧
      (∀ rd src, readOperand s src = readWord s a →
        exec (.ld rd src) s = entry ∧ exec (.cmp rd src) s = entry ∧
        (rd ≠ .flag → ∀ i ∈ [.add rd src, .sub rd src, .and rd src, .or rd src, .xor rd src, .adds rd src,
          .mul rd src, .div rd src, .mod rd src, .shla rd src, .shll rd src, .shra rd src, .shrl rd src],
          exec i s = entry)) ∧
      (∀ rd dst, (∀ rx, dst ≠ .byteIndirect rx) → storeEA s dst = a → exec (.st rd dst) s = entry) ∧
      (s.readReg .sp - 2#16 = a → (∀ tgt, exec (.call tgt) s = entry) ∧
        ∀ rd, rd ≠ .sp → (rd = .usp → s.flag.p = true) → exec (.push rd) s = entry) ∧
      (s.readReg .sp = a → exec .ret s = entry ∧ exec .reti s = entry ∧
        ∀ rd, rd ≠ .sp → (rd = .usp → s.flag.p = true) → exec (.pop rd) s = entry))

/-- While the IPL ROM is attached E000h..FFFFh shows its image and no store reaches the range: a byte there, and a word at
an even address there, are refused, so ST, CALL, PUSH and a trap frame are; once it is detached, and below E000h always,
bytes are the RAM's (92 D33, log 5; a word at an odd address raises first, log 48). -/
def Obligations.IplRomOverlay : Prop :=
  ∀ (s : State) (a : Word),
    (s.iplAttached = true → 0xE000 ≤ a.toNat →
      s.byteAt? a = some (Config.iplImage (BitVec.ofNat 13 (a.toNat - 0xE000))) ∧
      (s.mmu.enabled = false →
        (∀ b, writeByte s a b = .refused (.storeIntoRom a)) ∧
        (∀ rd rx, s.readReg rx = a → exec (.st rd (.byteIndirect rx)) s = .refused (.storeIntoRom a)) ∧
        (a.toNat % 2 = 0 →
          (∀ v, writeWord s a v = .refused (.storeIntoRom a)) ∧
          (∀ rd dst, (∀ rx, dst ≠ .byteIndirect rx) → storeEA s dst = a →
            exec (.st rd dst) s = .refused (.storeIntoRom a)) ∧
          (s.readReg .sp - 2#16 = a → (∀ tgt, exec (.call tgt) s = .refused (.storeIntoRom a)) ∧
            ∀ rd, rd ≠ .sp → (rd = .usp → s.flag.p = true) → exec (.push rd) s = .refused (.storeIntoRom a)) ∧
          ((s.ssp - 2#16 = a ∨ (s.inRom (s.ssp - 2#16) = false ∧ s.ssp - 4#16 = a)) →
            ∀ vec saved, trapEntry vec saved s = .refused (.storeIntoRom a))))) ∧
    ((s.iplAttached = false ∨ a.toNat < 0xE000) →
      s.byteAt? a = Memory.read? s.mem a.toNat ∧
      (s.mmu.enabled = false → ∀ b, ∃ t, writeByte s a b = .value t ∧ t.byteAt? a = some b ∧
        (∀ x, x ≠ a → t.byteAt? x = s.byteAt? x ∧ Memory.read? t.mem x.toNat = Memory.read? s.mem x.toNat) ∧
        t = { s with mem := t.mem }))

/-! ### Operand forms -/

/-- The operand of the forms Direct, Immediate, FP relative, Register, Imm4 and Register indirect, and the form number and
the low field, bits 3..0 of the first word, that stand for each. -/
def Obligations.OperandOfEachForm : Prop :=
  (∀ w : Word, (loField w).toNat = w.toNat % 16 ∧ (formField w).toNat = w.toNat / 256 % 8) ∧
  decodeOperand 0#3 0#4 = .ok (.two .direct) ∧ decodeOperand 2#3 0#4 = .ok (.two .imm) ∧
  (∀ lo : BitVec 4, decodeOperand 3#3 lo = .ok (.one (.fpRel lo)) ∧
    decodeOperand 4#3 lo = .ok (.one (.reg (Reg.ofCode lo))) ∧ decodeOperand 5#3 lo = .ok (.one (.imm4 lo)) ∧
    decodeOperand 6#3 lo = .ok (.one (.indirect (Reg.ofCode lo)))) ∧
  ∀ s : State,
    (∀ dsp, readOperand s (.direct dsp) = readWord s dsp) ∧
    (∀ v, readOperand s (.imm v) = .value v) ∧
    (∀ d4 : BitVec 4, readOperand s (.fpRel d4) = readWord s (BitVec.ofInt 16 (s.fp.toNat + 2 * d4.toInt))) ∧
    (∀ rs, readOperand s (.reg rs) = .value (s.readReg rs)) ∧
    (∀ i4 : BitVec 4, readOperand s (.imm4 i4) = .value (BitVec.ofInt 16 i4.toInt)) ∧
    (∀ rx, readOperand s (.indirect rx) = readWord s (s.readReg rx))

/-- Indexed addresses wrap modulo 2^16, and a byte operand, at any address, is zero-extended (92 D4, D5; logs 40, 41). The
effective address of a jump, a call or a store and the port of an IN or OUT are formed as an operand's is. -/
def Obligations.EffectiveAddressesWrapAndBytesZeroExtend : Prop :=
  ∀ (s : State) (dsp : Word) (rx : Reg) (d4 : BitVec 4),
    readOperand s (.indexed dsp rx) = readWord s (BitVec.ofNat 16 (dsp.toNat + (s.readReg rx).toNat)) ∧
    (∀ b : Byte, s.mmu.enabled = false → s.byteAt? (s.readReg rx) = some b →
      readOperand s (.byteIndirect rx) = .value (0#8 ++ b)) ∧
    targetEA s (.direct dsp) = dsp ∧
    targetEA s (.indexed dsp rx) = BitVec.ofNat 16 (dsp.toNat + (s.readReg rx).toNat) ∧
    storeEA s (.direct dsp) = dsp ∧
    storeEA s (.indexed dsp rx) = BitVec.ofNat 16 (dsp.toNat + (s.readReg rx).toNat) ∧
    storeEA s (.fpRel d4) = BitVec.ofInt 16 (s.fp.toNat + 2 * d4.toInt) ∧
    storeEA s (.indirect rx) = s.readReg rx ∧ storeEA s (.byteIndirect rx) = s.readReg rx ∧
    portAddr s (.direct dsp) = dsp ∧ portAddr s (.indirect rx) = s.readReg rx

/-! ### NO, LD, ST -/

/-- NO changes nothing but the PC (92 D29, log 12). -/
def Obligations.NoOnlyAdvances : Prop :=
  ∀ s : State, exec .no s = .next { s with pc := s.pc + 2#16 }

/-- LD writes its operand to Rd and changes nothing else but the PC; FLAG only as register 15 (logs 12, 13). -/
def Obligations.LdLoadsItsOperand : Prop :=
  ∀ (rd : Reg) (src : Operand) (s : State) (v : Word), readOperand s src = .value v →
    exec (.ld rd src) s = .next { s.writeReg rd v with pc := s.pc + (Instr.ld rd src).size }

/-- ST in its four word forms stores Rd at its effective address, the address even and outside the attached ROM, and
changes no other byte, and nothing else but the PC (log 13). -/
def Obligations.StStoresAWord : Prop :=
  ∀ (rd : Reg) (dst : StoreOperand) (s : State) (a : Word),
    (∀ rx, dst ≠ .byteIndirect rx) → a = storeEA s dst →
    s.mmu.enabled = false → a.toNat % 2 = 0 → s.inRom a = false →
    ∃ t, exec (.st rd dst) s = .next t ∧
      readWord t a = .value (s.readReg rd) ∧
      (∀ x, x ≠ a → x ≠ a + 1#16 → t.byteAt? x = s.byteAt? x ∧ Memory.read? t.mem x.toNat = Memory.read? s.mem x.toNat) ∧
      t = { s with mem := t.mem, pc := s.pc + (Instr.st rd dst).size }

/-- ST in the byte form stores the low byte of Rd at any address outside the attached ROM, and leaves the neighbouring
byte alone (92 D4, log 41). -/
def Obligations.StStoresAByte : Prop :=
  ∀ (rd rx : Reg) (s : State) (a : Word), a = s.readReg rx → s.mmu.enabled = false → s.inRom a = false →
    ∃ t, exec (.st rd (.byteIndirect rx)) s = .next t ∧
      t.byteAt? a = some ((s.readReg rd).extractLsb' 0 8) ∧
      (∀ x, x ≠ a → t.byteAt? x = s.byteAt? x ∧ Memory.read? t.mem x.toNat = Memory.read? s.mem x.toNat) ∧
      t = { s with mem := t.mem, pc := s.pc + 2#16 }

/-! ### Arithmetic and logic -/

/-- ADD: the sum modulo 2^16; V signed overflow, C the carry, S and Z of the result; nothing else changes but the PC
(92 D18, log 26). -/
def Obligations.AddResultAndFlags : Prop :=
  ∀ (rd : Reg) (src : Operand) (s : State) (a b : Word),
    rd ≠ .flag → a = s.readReg rd → readOperand s src = .value b →
    exec (.add rd src) s = .next { s.writeReg rd (a + b) with
      flag := { s.flag with
        v := decide ((a + b).toInt ≠ a.toInt + b.toInt)
        c := decide (65536 ≤ a.toNat + b.toNat)
        s := (a + b).msb
        z := decide (a + b = 0#16) }
      pc := s.pc + (Instr.add rd src).size }

/-- SUB: the difference modulo 2^16; V signed overflow, C the borrow, S and Z of the result (92 D18, log 26). -/
def Obligations.SubResultAndFlags : Prop :=
  ∀ (rd : Reg) (src : Operand) (s : State) (a b : Word),
    rd ≠ .flag → a = s.readReg rd → readOperand s src = .value b →
    exec (.sub rd src) s = .next { s.writeReg rd (a - b) with
      flag := { s.flag with
        v := decide ((a - b).toInt ≠ a.toInt - b.toInt)
        c := decide (a.toNat < b.toNat)
        s := (a - b).msb
        z := decide (a - b = 0#16) }
      pc := s.pc + (Instr.sub rd src).size }

/-- CMP is exactly SUB without the write of Rd: it writes the four flags SUB writes, and nothing else but the PC; Rd may
be FLAG. -/
def Obligations.CmpIsSubWithoutTheWrite : Prop :=
  ∀ (rd : Reg) (src : Operand) (s : State) (a b : Word), a = s.readReg rd → readOperand s src = .value b →
    ∃ f : Flag,
      f = { s.flag with
        v := decide ((a - b).toInt ≠ a.toInt - b.toInt)
        c := decide (a.toNat < b.toNat)
        s := (a - b).msb
        z := decide (a - b = 0#16) } ∧
      exec (.cmp rd src) s = .next { s with flag := f, pc := s.pc + (Instr.cmp rd src).size } ∧
      (rd ≠ .flag → ∃ u, exec (.sub rd src) s = .next u ∧ u.flag = f)

/-- AND, OR, XOR: the bitwise result; S and Z of it; V and C the next two free bits, neither the old ones nor a fixed
value; nothing else changes but the PC and the count of free values (92 D18, D19; logs 11, 26). -/
def Obligations.BitwiseResultsAndFlags : Prop :=
  ∀ (rd : Reg) (src : Operand) (s : State) (a b : Word) (v c : Bool),
    rd ≠ .flag → a = s.readReg rd → readOperand s src = .value b →
    v = Config.freeBit s.draws → c = Config.freeBit (s.draws + 1) →
    exec (.and rd src) s = .next { s.writeReg rd (a &&& b) with
      flag := { s.flag with v := v, c := c, s := (a &&& b).msb, z := decide (a &&& b = 0#16) }
      pc := s.pc + (Instr.and rd src).size
      draws := s.draws + 2 } ∧
    exec (.or rd src) s = .next { s.writeReg rd (a ||| b) with
      flag := { s.flag with v := v, c := c, s := (a ||| b).msb, z := decide (a ||| b = 0#16) }
      pc := s.pc + (Instr.or rd src).size
      draws := s.draws + 2 } ∧
    exec (.xor rd src) s = .next { s.writeReg rd (a ^^^ b) with
      flag := { s.flag with v := v, c := c, s := (a ^^^ b).msb, z := decide (a ^^^ b = 0#16) }
      pc := s.pc + (Instr.xor rd src).size
      draws := s.draws + 2 }

/-- ADDS adds twice the operand, MUL keeps the low 16 bits of the product; S and Z of the result; V and C the next two
free bits; nothing else changes but the PC and the count of free values (92 D18, D19, D22; logs 11, 26, 28). -/
def Obligations.AddsAndMulResults : Prop :=
  ∀ (rd : Reg) (src : Operand) (s : State) (a b : Word) (v c : Bool),
    rd ≠ .flag → a = s.readReg rd → readOperand s src = .value b →
    v = Config.freeBit s.draws → c = Config.freeBit (s.draws + 1) →
    exec (.adds rd src) s = .next { s.writeReg rd (a + 2#16 * b) with
      flag := { s.flag with v := v, c := c, s := (a + 2#16 * b).msb, z := decide (a + 2#16 * b = 0#16) }
      pc := s.pc + (Instr.adds rd src).size
      draws := s.draws + 2 } ∧
    exec (.mul rd src) s = .next { s.writeReg rd (a * b) with
      flag := { s.flag with v := v, c := c, s := (a * b).msb, z := decide (a * b = 0#16) }
      pc := s.pc + (Instr.mul rd src).size
      draws := s.draws + 2 }

/-- DIV and MOD by a non-zero operand: quotient `q` and remainder `r` unsigned (the default of DIV_SIGNED, log 29), so
that q * b + r = a and r < b; S and Z of the result; V and C the next two free bits; nothing else changes but the PC and
the count of free values. -/
def Obligations.DivAndModResults : Prop :=
  ∀ (rd : Reg) (src : Operand) (s : State) (a b : Word) (v c : Bool),
    rd ≠ .flag → a = s.readReg rd → readOperand s src = .value b → b ≠ 0#16 →
    v = Config.freeBit s.draws → c = Config.freeBit (s.draws + 1) →
    ∃ q r : Word, q.toNat * b.toNat + r.toNat = a.toNat ∧ r.toNat < b.toNat ∧
      exec (.div rd src) s = .next { s.writeReg rd q with
        flag := { s.flag with v := v, c := c, s := q.msb, z := decide (q = 0#16) }
        pc := s.pc + (Instr.div rd src).size
        draws := s.draws + 2 } ∧
      exec (.mod rd src) s = .next { s.writeReg rd r with
        flag := { s.flag with v := v, c := c, s := r.msb, z := decide (r = 0#16) }
        pc := s.pc + (Instr.mod rd src).size
        draws := s.draws + 2 }

/-- A zero operand of DIV or MOD raises ZeroDivision: the trap through FFF8h with the address of the instruction saved
and Rd and the flags as they were when it is entered (92 D12, D24; logs 19, 30). -/
def Obligations.ZeroDivisorTraps : Prop :=
  ∀ (rd : Reg) (src : Operand) (s : State), rd ≠ .flag → readOperand s src = .value 0#16 →
    exec (.div rd src) s = trapEntry 0xFFF8#16 s.pc s ∧ exec (.mod rd src) s = trapEntry 0xFFF8#16 s.pc s

/-! ### Shifts -/

/-- SHLA and SHLL by n = the low four bits of the operand: the value times 2^n modulo 2^16; C is the old bit 15 for
n = 1 and a free bit otherwise, V a free bit; SHLL is identical to SHLA in result and flags; nothing else changes but the
PC and the count of free values (92 D19, D20, D21; logs 11, 26, 27). -/
def Obligations.LeftShiftResults : Prop :=
  ∀ (rd : Reg) (src : Operand) (s : State) (a b r : Word) (n : Nat) (v c : Bool),
    rd ≠ .flag → a = s.readReg rd → readOperand s src = .value b → n = b.toNat % 16 →
    r = BitVec.ofNat 16 (a.toNat * 2 ^ n) →
    v = Config.freeBit s.draws → c = (if n = 1 then a.getLsbD 15 else Config.freeBit (s.draws + 1)) →
    ∃ t : State,
      t = { s.writeReg rd r with
        flag := { s.flag with v := v, c := c, s := r.msb, z := decide (r = 0#16) }
        pc := s.pc + (Instr.shla rd src).size
        draws := s.draws + 2 } ∧
      exec (.shla rd src) s = .next t ∧ exec (.shll rd src) s = .next t

/-- SHRA by n keeps the sign, s(r) = floor(s(a) / 2^n), and SHRL brings zeros in, u(r) = floor(u(a) / 2^n); C is the old
bit 0 for n = 1 and a free bit otherwise, V a free bit; nothing else changes but the PC and the count of free values
(92 D19, D20, D21; logs 11, 26, 27). -/
def Obligations.RightShiftResults : Prop :=
  ∀ (rd : Reg) (src : Operand) (s : State) (a b : Word) (n : Nat) (v c : Bool),
    rd ≠ .flag → a = s.readReg rd → readOperand s src = .value b → n = b.toNat % 16 →
    v = Config.freeBit s.draws → c = (if n = 1 then a.getLsbD 0 else Config.freeBit (s.draws + 1)) →
    (∃ r : Word, r.toInt = a.toInt / 2 ^ n ∧
      exec (.shra rd src) s = .next { s.writeReg rd r with
        flag := { s.flag with v := v, c := c, s := r.msb, z := decide (r = 0#16) }
        pc := s.pc + (Instr.shra rd src).size
        draws := s.draws + 2 }) ∧
    (∃ r : Word, r.toNat = a.toNat / 2 ^ n ∧
      exec (.shrl rd src) s = .next { s.writeReg rd r with
        flag := { s.flag with v := v, c := c, s := r.msb, z := decide (r = 0#16) }
        pc := s.pc + (Instr.shrl rd src).size
        draws := s.draws + 2 })

/-! ### Jumps, call, return -/

/-- The jumps on one flag, and JMP: their words, and the effective address if the condition holds, else the address after
the two words; nothing else changes. -/
def Obligations.OneFlagJumps : Prop :=
  (∀ w : Word, decodeWords [0xA000#16, w] = .ok (.jz (.direct w), []) ∧
    decodeWords [0xA010#16, w] = .ok (.jc (.direct w), []) ∧ decodeWords [0xA020#16, w] = .ok (.jm (.direct w), []) ∧
    decodeWords [0xA030#16, w] = .ok (.jo (.direct w), []) ∧ decodeWords [0xA080#16, w] = .ok (.jnz (.direct w), []) ∧
    decodeWords [0xA090#16, w] = .ok (.jnc (.direct w), []) ∧ decodeWords [0xA0A0#16, w] = .ok (.jnm (.direct w), []) ∧
    decodeWords [0xA0B0#16, w] = .ok (.jno (.direct w), []) ∧ decodeWords [0xA0F0#16, w] = .ok (.jmp (.direct w), []) ∧
    decodeWords [0xA1F1#16, w] = .ok (.jmp (.indexed w (.g 1)), [])) ∧
  ∀ (tgt : Target) (s : State),
    exec (.jz tgt) s = .next { s with pc := if s.flag.z = true then targetEA s tgt else s.pc + 4#16 } ∧
    exec (.jc tgt) s = .next { s with pc := if s.flag.c = true then targetEA s tgt else s.pc + 4#16 } ∧
    exec (.jm tgt) s = .next { s with pc := if s.flag.s = true then targetEA s tgt else s.pc + 4#16 } ∧
    exec (.jo tgt) s = .next { s with pc := if s.flag.v = true then targetEA s tgt else s.pc + 4#16 } ∧
    exec (.jnz tgt) s = .next { s with pc := if s.flag.z = false then targetEA s tgt else s.pc + 4#16 } ∧
    exec (.jnc tgt) s = .next { s with pc := if s.flag.c = false then targetEA s tgt else s.pc + 4#16 } ∧
    exec (.jnm tgt) s = .next { s with pc := if s.flag.s = false then targetEA s tgt else s.pc + 4#16 } ∧
    exec (.jno tgt) s = .next { s with pc := if s.flag.v = false then targetEA s tgt else s.pc + 4#16 } ∧
    exec (.jmp tgt) s = .next { s with pc := targetEA s tgt }

/-- The jumps on two or three flags. -/
def Obligations.ComparingJumps : Prop :=
  ∀ (tgt : Target) (s : State),
    exec (.jgt tgt) s = .next { s with
      pc := if s.flag.z = false ∧ s.flag.s = s.flag.v then targetEA s tgt else s.pc + 4#16 } ∧
    exec (.jge tgt) s = .next { s with pc := if s.flag.s = s.flag.v then targetEA s tgt else s.pc + 4#16 } ∧
    exec (.jle tgt) s = .next { s with
      pc := if s.flag.z = true ∨ s.flag.s ≠ s.flag.v then targetEA s tgt else s.pc + 4#16 } ∧
    exec (.jlt tgt) s = .next { s with pc := if s.flag.s ≠ s.flag.v then targetEA s tgt else s.pc + 4#16 } ∧
    exec (.jhi tgt) s = .next { s with
      pc := if s.flag.z = false ∧ s.flag.c = false then targetEA s tgt else s.pc + 4#16 } ∧
    exec (.jls tgt) s = .next { s with
      pc := if s.flag.z = true ∨ s.flag.c = true then targetEA s tgt else s.pc + 4#16 }

/-- After CMP a,b the ten jumps test the relation of a to b, signed and unsigned, as the source's table says. -/
def Obligations.CompareThenJump : Prop :=
  ∀ (rd : Reg) (src : Operand) (tgt : Target) (s : State) (a b : Word),
    a = s.readReg rd → readOperand s src = .value b →
    ∃ t, exec (.cmp rd src) s = .next t ∧
      exec (.jgt tgt) t = .next { t with pc := if b.toInt < a.toInt then targetEA t tgt else t.pc + 4#16 } ∧
      exec (.jge tgt) t = .next { t with pc := if b.toInt ≤ a.toInt then targetEA t tgt else t.pc + 4#16 } ∧
      exec (.jle tgt) t = .next { t with pc := if a.toInt ≤ b.toInt then targetEA t tgt else t.pc + 4#16 } ∧
      exec (.jlt tgt) t = .next { t with pc := if a.toInt < b.toInt then targetEA t tgt else t.pc + 4#16 } ∧
      exec (.jz tgt) t = .next { t with pc := if a = b then targetEA t tgt else t.pc + 4#16 } ∧
      exec (.jnz tgt) t = .next { t with pc := if a ≠ b then targetEA t tgt else t.pc + 4#16 } ∧
      exec (.jhi tgt) t = .next { t with pc := if b.toNat < a.toNat then targetEA t tgt else t.pc + 4#16 } ∧
      exec (.jnc tgt) t = .next { t with pc := if b.toNat ≤ a.toNat then targetEA t tgt else t.pc + 4#16 } ∧
      exec (.jls tgt) t = .next { t with pc := if a.toNat ≤ b.toNat then targetEA t tgt else t.pc + 4#16 } ∧
      exec (.jc tgt) t = .next { t with pc := if a.toNat < b.toNat then targetEA t tgt else t.pc + 4#16 }

/-- CALL pushes the address after it on the stack in use and goes to the target, computed before SP changes; no other
byte and nothing else changes (92 D9, D10; logs 16, 17). -/
def Obligations.CallPushesTheReturnAddress : Prop :=
  ∀ (tgt : Target) (s : State) (sp : Word), sp = s.readReg .sp - 2#16 →
    s.mmu.enabled = false → sp.toNat % 2 = 0 → s.inRom sp = false →
    ∃ t, exec (.call tgt) s = .next t ∧
      readWord t sp = .value (s.pc + 4#16) ∧
      (∀ x, x ≠ sp → x ≠ sp + 1#16 → t.byteAt? x = s.byteAt? x ∧ Memory.read? t.mem x.toNat = Memory.read? s.mem x.toNat) ∧
      t = { s.writeReg .sp sp with mem := t.mem, pc := targetEA s tgt }

/-- RET pops the PC from the stack in use. -/
def Obligations.RetPopsThePc : Prop :=
  ∀ (s : State) (v : Word), readWord s (s.readReg .sp) = .value v →
    exec .ret s = .next { s.writeReg .sp (s.readReg .sp + 2#16) with pc := v }

/-! ### The stack -/

/-- PUSH of a register other than the stack pointer in use (92 D9, log 16). -/
def Obligations.PushStoresBelow : Prop :=
  ∀ (rd : Reg) (s : State) (sp : Word), rd ≠ .sp → (rd = .usp → s.flag.p = true) → sp = s.readReg .sp - 2#16 →
    s.mmu.enabled = false → sp.toNat % 2 = 0 → s.inRom sp = false →
    ∃ t, exec (.push rd) s = .next t ∧
      readWord t sp = .value (s.readReg rd) ∧
      (∀ x, x ≠ sp → x ≠ sp + 1#16 → t.byteAt? x = s.byteAt? x ∧ Memory.read? t.mem x.toNat = Memory.read? s.mem x.toNat) ∧
      t = { s.writeReg .sp sp with mem := t.mem, pc := s.pc + 2#16 }

/-- POP of a register other than the stack pointer in use: the pointer moved is the one in use before Rd is written. -/
def Obligations.PopLoadsAndMovesUp : Prop :=
  ∀ (rd : Reg) (s : State) (v : Word), rd ≠ .sp → (rd = .usp → s.flag.p = true) →
    readWord s (s.readReg .sp) = .value v →
    exec (.pop rd) s = .next { (s.writeReg .sp (s.readReg .sp + 2#16)).writeReg rd v with pc := s.pc + 2#16 }

/-- Every instruction that writes a result and the flags is refused with Rd = FLAG, and PUSH and POP of the stack pointer
in use are refused: D in both modes, E in user mode (92 D25, D26; logs 14, 15). -/
def Obligations.RefusedRegisters : Prop :=
  ∀ (src : Operand) (s : State) (i : Instr),
    (i ∈ [.add .flag src, .sub .flag src, .and .flag src, .or .flag src, .xor .flag src, .adds .flag src,
         .mul .flag src, .div .flag src, .mod .flag src, .shla .flag src, .shll .flag src, .shra .flag src,
         .shrl .flag src] → exec i s = .refused .flagDestination) ∧
    exec (.push .sp) s = .refused .pushPopOfSp ∧ exec (.pop .sp) s = .refused .pushPopOfSp ∧
    (s.flag.p = false →
      exec (.push .usp) s = .refused .pushPopOfSp ∧ exec (.pop .usp) s = .refused .pushPopOfSp)

/-! ### Input and output -/

/-- The I/O map: the register that IN reads and OUT writes at each port, no port beside those, and IN or OUT at any other
port or in the other direction, where the mode allows it, refused as unlisted (92 D32, log 33). -/
def Obligations.IoMapPorts : Prop :=
  (∀ e ∈ [(0x00#16, InPort.timerCurrent .t0), (0x02#16, .timerFlag .t0), (0x04#16, .timerCurrent .t1),
      (0x06#16, .timerFlag .t1), (0x08#16, .device (.serialData .ft232rl)), (0x0A#16, .device (.serialStat .ft232rl)),
      (0x0C#16, .device (.serialData .tec)), (0x0E#16, .device (.serialStat .tec)), (0x10#16, .device .usdStat),
      (0x12#16, .device .usdMemAddr), (0x14#16, .device .usdBlkAddrH), (0x16#16, .device .usdBlkAddrL),
      (0x18#16, .device .ioPort), (0x1E#16, .device .mode), (0x20#16, .device .spiData), (0x22#16, .device .spiStat),
      (0x24#16, .device .pioMask), (0x26#16, .device .pioXor), (0x28#16, .device (.serialData .rn4020)),
      (0x2A#16, .device (.serialStat .rn4020)), (0x2C#16, .rn4020Cmd), (0x2E#16, .rn4020Ram),
      (0x30#16, .device .tecLamps), (0x32#16, .fixedZero), (0x34#16, .fixedZero), (0x36#16, .device .tecStatus),
      (0x38#16, .fixedZero), (0xA2#16, .mmuViolAddr), (0xA4#16, .mmuCause), (0xA6#16, .mmuPage),
      (0xF8#16, .device .consoleSwitches), (0xFA#16, .device .consoleAddress), (0xFC#16, .device .rotarySwitch),
      (0xFE#16, .device .functionReg)], inPort? e.1 = some e.2) ∧
  (∀ e ∈ [(0x00#16, OutPort.timerPeriod .t0), (0x02#16, .timerControl .t0), (0x04#16, .timerPeriod .t1),
      (0x06#16, .timerControl .t1), (0x08#16, .serialData .ft232rl), (0x0A#16, .serialCtrl .ft232rl),
      (0x0C#16, .serialData .tec), (0x0E#16, .serialCtrl .tec), (0x10#16, .usdCtrl), (0x12#16, .usdMemAddr),
      (0x14#16, .usdBlkAddrH), (0x16#16, .usdBlkAddrL), (0x18#16, .ioPort), (0x1A#16, .adcRef), (0x1C#16, .outPortHi),
      (0x20#16, .spiData), (0x22#16, .spiSclk), (0x24#16, .pioMask), (0x26#16, .pioXor), (0x28#16, .serialData .rn4020),
      (0x2A#16, .serialCtrl .rn4020), (0x2C#16, .rn4020Cmd), (0x2E#16, .rn4020Ram), (0x32#16, .tecDSw),
      (0x34#16, .tecFnc), (0x36#16, .tecCtl), (0xA0#16, .iplDetach), (0xA2#16, .mmuEnable), (0xA8#16, .mmuPageTable),
      (0xF8#16, .consoleData)], outPort? e.1 = some e.2) ∧
  (∀ k : Fin 8,
    inPort? (BitVec.ofNat 16 (0x80 + 4 * k.val)) = some (.tlbHigh k) ∧
    inPort? (BitVec.ofNat 16 (0x82 + 4 * k.val)) = some (.tlbLow k) ∧
    outPort? (BitVec.ofNat 16 (0x80 + 4 * k.val)) = some (.tlbHigh k) ∧
    outPort? (BitVec.ofNat 16 (0x82 + 4 * k.val)) = some (.tlbLow k)) ∧
  (∀ a : Word,
    ((inPort? a).isSome = true ↔ a.toNat % 2 = 0 ∧
      (a.toNat ≤ 0x18 ∨ (0x1E ≤ a.toNat ∧ a.toNat ≤ 0x38) ∨ (0x80 ≤ a.toNat ∧ a.toNat ≤ 0x9E) ∨
        (0xA2 ≤ a.toNat ∧ a.toNat ≤ 0xA6) ∨ (0xF8 ≤ a.toNat ∧ a.toNat ≤ 0xFE))) ∧
    ((outPort? a).isSome = true ↔ a.toNat % 2 = 0 ∧
      (a.toNat ≤ 0x1C ∨ (0x20 ≤ a.toNat ∧ a.toNat ≤ 0x2E) ∨ (0x32 ≤ a.toNat ∧ a.toNat ≤ 0x36) ∨
        (0x80 ≤ a.toNat ∧ a.toNat ≤ 0xA0) ∨ a.toNat = 0xA2 ∨ a.toNat = 0xA8 ∨ a.toNat = 0xF8))) ∧
  ∀ (rd : Reg) (port : PortOperand) (s : State) (a : Word), (s.flag.p = true ∨ s.flag.i = true) → a = portAddr s port →
    (inPort? a = none → exec (.inp rd port) s = .refused (.unlistedPort a)) ∧
    (outPort? a = none → exec (.out rd port) s = .refused (.unlistedPort a))

/-- IN from a listed port, in privileged mode or with I = 1: Rd takes what the port reads, in the state the read leaves,
and nothing else changes but the PC; memory is as it was. -/
def Obligations.InReadsThePort : Prop :=
  ∀ (rd : Reg) (port : PortOperand) (s : State) (p : InPort),
    (s.flag.p = true ∨ s.flag.i = true) → inPort? (portAddr s port) = some p →
    exec (.inp rd port) s = .next { (readPort s p).2.writeReg rd (readPort s p).1 with
      pc := s.pc + (Instr.inp rd port).size }

/-- What an IN of each port reads and all that it changes. A device port reads the next free value within the bits R251
leaves the device, the others 0, and 32h, 34h and 38h read 0; a timer's count and flag read a free value, which stands in
that register afterwards; RN4020-Cmd reads its initial value to the first access after a reset and then a free value
within 000Fh; RN4020-RAM and the MMU's registers read what they hold and keep it (92 D37; logs 34, 35, 36, 49, 51). The values
of the TLB words are in TlbEntryReadsBack. -/
def Obligations.PortReadValues : Prop :=
  ∀ (s drawn : State) (w : Word), w = Config.freeWord s.draws → drawn = { s with draws := s.draws + 1 } →
    (∀ e ∈ [(0x08#16, 0x00FF#16), (0x0A#16, 0x00C0#16), (0x0C#16, 0x00FF#16), (0x0E#16, 0x00C0#16),
        (0x10#16, 0x00C1#16), (0x12#16, 0xFFFF#16), (0x14#16, 0xFFFF#16), (0x16#16, 0xFFFF#16), (0x18#16, 0x00FF#16),
        (0x1E#16, 0x0007#16), (0x20#16, 0x00FF#16), (0x22#16, 0x00FF#16), (0x24#16, 0x00FF#16), (0x26#16, 0x00FF#16),
        (0x28#16, 0x00FF#16), (0x2A#16, 0x00C0#16), (0x30#16, 0x00FF#16), (0x36#16, 0x00FF#16), (0xF8#16, 0xFFFF#16),
        (0xFA#16, 0xFFFF#16), (0xFC#16, 0x001F#16), (0xFE#16, 0x000F#16)],
      ∃ d, inPort? e.1 = some (.device d) ∧ readPort s (.device d) = (w &&& e.2, drawn)) ∧
    (∀ a ∈ [0x32#16, 0x34#16, 0x38#16], ∃ p, inPort? a = some p ∧ readPort s p = (0x0000#16, s)) ∧
    readPort s (.timerCurrent .t0) =
      (w, { drawn with io := { s.io with timer0 := { s.io.timer0 with current := w } } }) ∧
    readPort s (.timerFlag .t0) = (w, { drawn with io := { s.io with timer0 := { s.io.timer0 with flag := w } } }) ∧
    readPort s (.timerCurrent .t1) =
      (w, { drawn with io := { s.io with timer1 := { s.io.timer1 with current := w } } }) ∧
    readPort s (.timerFlag .t1) = (w, { drawn with io := { s.io with timer1 := { s.io.timer1 with flag := w } } }) ∧
    (s.io.rn4020CmdInitial = true → readPort s .rn4020Cmd =
      (s.io.rn4020Cmd.setWidth 16, { s with io := { s.io with rn4020CmdInitial := false } })) ∧
    (s.io.rn4020CmdInitial = false → readPort s .rn4020Cmd = (w &&& 0x000F#16, drawn)) ∧
    (readPort State.reset .rn4020Cmd).1 = 0x0001#16 ∧ (readPort s.resetFrom .rn4020Cmd).1 = 0x0001#16 ∧
    readPort s .rn4020Ram = (0#8 ++ s.io.rn4020Ram, s) ∧
    readPort s .mmuViolAddr = (s.mmu.violAddr, s) ∧
    readPort s .mmuCause = (BitVec.ofNat 16 (s.mmu.cause.toNat % 4), s) ∧
    readPort s .mmuPage = (BitVec.ofNat 16 (s.mmu.page.toNat % 256), s) ∧
    ∀ k : Fin 8, (readPort s (.tlbHigh k)).2 = s ∧ (readPort s (.tlbLow k)).2 = drawn

/-- OUT to a listed port, in privileged mode or with I = 1, where the write is not one the model refuses: the write
reaches the I/O registers, the MMU's or the IPL overlay, is an event of the run, and leaves registers, flags and memory
alone. The event carries all 16 bits of Rd, at an 8-bit port too, which is the model's choice (logs 34, 50). -/
def Obligations.OutWritesThePort : Prop :=
  ∀ (rd : Reg) (port : PortOperand) (s : State) (p : OutPort) (v : Word),
    (s.flag.p = true ∨ s.flag.i = true) → v = s.readReg rd →
    outPort? (portAddr s port) = some p → outRefusal s p v = none →
    exec (.out rd port) s = .next { s with
      io := writeIo s.io p v
      mmu := writeMmu s.mmu p v
      iplAttached := writeIpl s.iplAttached p v
      outEvents := s.outEvents ++ [(portAddr s port, v)]
      pc := s.pc + (Instr.out rd port).size }

/-- In privileged mode or with I = 1, and in both forms: OUT to A0h with bit 0 = 1 detaches the IPL ROM; with bit 0 = 0 it
leaves an attached ROM and is refused after detachment; OUT to A2h with bit 0 = 1 is refused, with bit 0 = 0 the MMU stays
off. An OUT that is not refused is an event of the run with all 16 bits of Rd, which is the model's choice (logs 34, 50).
(92 D33, D34; logs 5, 37.) -/
def Obligations.IplAndMmuSwitches : Prop :=
  ∀ (rd : Reg) (port : PortOperand) (s : State) (a v size : Word), (s.flag.p = true ∨ s.flag.i = true) →
    v = s.readReg rd → a = portAddr s port → size = (Instr.out rd port).size →
    (a = 0x00A0#16 → v.getLsbD 0 = true → exec (.out rd port) s = .next { s with
      iplAttached := false, outEvents := s.outEvents ++ [(a, v)], pc := s.pc + size }) ∧
    (a = 0x00A0#16 → v.getLsbD 0 = false → s.iplAttached = true → exec (.out rd port) s = .next { s with
      outEvents := s.outEvents ++ [(a, v)], pc := s.pc + size }) ∧
    (a = 0x00A0#16 → v.getLsbD 0 = false → s.iplAttached = false →
      exec (.out rd port) s = .refused .reattachIpl) ∧
    (a = 0x00A2#16 → v.getLsbD 0 = true → exec (.out rd port) s = .refused .mmuEnabled) ∧
    (a = 0x00A2#16 → v.getLsbD 0 = false → s.mmu.enabled = false → exec (.out rd port) s = .next { s with
      outEvents := s.outEvents ++ [(a, v)], pc := s.pc + size })

/-- Each interrupt enable is the bit last written to its control port: after an OUT to 02h, 06h, 2Ah, 0Ah, 0Eh, 10h or 24h
the enables on that port are the bits written and the others are as before; an OUT to any other port, and any other
instruction, leaves them all as they were. A device raises a request only while its enable is 1, and that changes nothing
else (92 D13, D37; logs 20, 21, 34). -/
def Obligations.InterruptEnablesFollowControlPorts : Prop :=
  (outPort? 0x02#16 = some (.timerControl .t0) ∧ outPort? 0x06#16 = some (.timerControl .t1) ∧
    outPort? 0x2A#16 = some (.serialCtrl .rn4020) ∧ outPort? 0x0A#16 = some (.serialCtrl .ft232rl) ∧
    outPort? 0x0E#16 = some (.serialCtrl .tec) ∧ outPort? 0x10#16 = some .usdCtrl ∧
    outPort? 0x24#16 = some .pioMask) ∧
  ∀ (io : Io) (v : Word) (k : IntSource) (s : State),
    (writeIo io (.timerControl .t0) v).intEnable k = (if k = .timer0 then v.getLsbD 15 else io.intEnable k) ∧
    (writeIo io (.timerControl .t1) v).intEnable k = (if k = .timer1 then v.getLsbD 15 else io.intEnable k) ∧
    (writeIo io (.serialCtrl .rn4020) v).intEnable k =
      (if k = .rn4020Rx then v.getLsbD 6 else if k = .rn4020Tx then v.getLsbD 7 else io.intEnable k) ∧
    (writeIo io (.serialCtrl .ft232rl) v).intEnable k =
      (if k = .ft232rlRx then v.getLsbD 6 else if k = .ft232rlTx then v.getLsbD 7 else io.intEnable k) ∧
    (writeIo io (.serialCtrl .tec) v).intEnable k =
      (if k = .tecRx then v.getLsbD 6 else if k = .tecTx then v.getLsbD 7 else io.intEnable k) ∧
    (writeIo io .usdCtrl v).intEnable k = (if k = .microSd then v.getLsbD 7 else io.intEnable k) ∧
    (writeIo io .pioMask v).intEnable k =
      (if k = .pio then decide (v.extractLsb' 0 8 ≠ 0#8) else io.intEnable k) ∧
    (∀ p : OutPort, (∀ t, p ≠ .timerControl t) → (∀ u, p ≠ .serialCtrl u) → p ≠ .usdCtrl → p ≠ .pioMask →
      (writeIo io p v).intEnable k = io.intEnable k) ∧
    (∀ (i : Instr) (t : State), (∀ rd port, i ≠ .out rd port) → exec i s = .next t →
      t.io.intEnable k = s.io.intEnable k) ∧
    (s.io.intEnable k = false → hostMove (.raiseRequest k) s = s) ∧
    (s.io.intEnable k = true → ∃ irq' : BitVec 10,
      (∀ j, irq'.getLsbD j = (s.irq.getLsbD j || decide (j = k.index))) ∧
      hostMove (.raiseRequest k) s = { s with irq := irq' })

/-- What an OUT leaves in the register it reaches, at each port of the map, everything else of the I/O registers and the
MMU as before: an 8-bit port takes the low byte, uSD-Ctrl, the timer and serial controls and the output port high the
bits R251 names. RN4020-RAM reads back as written; RN4020-Cmd keeps its four bits and no longer gives its initial value
(logs 36, 51). A TLB word sets its fields of its entry, and no other entry or register of the MMU. The switches at A0h and A2h
are in IplAndMmuSwitches. -/
def Obligations.OutSetsTheRegisterItReaches : Prop :=
  ∀ (io : Io) (m : Mmu) (v : Word) (b : Byte), b = v.extractLsb' 0 8 →
    writeIo io (.timerPeriod .t0) v = { io with timer0 := { io.timer0 with period := v } } ∧
    writeIo io (.timerPeriod .t1) v = { io with timer1 := { io.timer1 with period := v } } ∧
    writeIo io (.timerControl .t0) v =
      { io with timer0 := { io.timer0 with intEnable := v.getLsbD 15, start := v.getLsbD 0 } } ∧
    writeIo io (.timerControl .t1) v =
      { io with timer1 := { io.timer1 with intEnable := v.getLsbD 15, start := v.getLsbD 0 } } ∧
    writeIo io (.serialData .ft232rl) v = { io with ft232rl := { io.ft232rl with sent := b } } ∧
    writeIo io (.serialData .tec) v = { io with tec := { io.tec with sent := b } } ∧
    writeIo io (.serialData .rn4020) v = { io with rn4020 := { io.rn4020 with sent := b } } ∧
    writeIo io (.serialCtrl .ft232rl) v =
      { io with ft232rl := { io.ft232rl with txInt := v.getLsbD 7, rxInt := v.getLsbD 6 } } ∧
    writeIo io (.serialCtrl .tec) v = { io with tec := { io.tec with txInt := v.getLsbD 7, rxInt := v.getLsbD 6 } } ∧
    writeIo io (.serialCtrl .rn4020) v =
      { io with rn4020 := { io.rn4020 with txInt := v.getLsbD 7, rxInt := v.getLsbD 6 } } ∧
    writeIo io .usdCtrl v = { io with usd := { io.usd with
      intEna := v.getLsbD 7, init := v.getLsbD 2, read := v.getLsbD 1, write := v.getLsbD 0 } } ∧
    writeIo io .usdMemAddr v = { io with usd := { io.usd with memAddr := v } } ∧
    writeIo io .usdBlkAddrH v = { io with usd := { io.usd with blkAddrH := v } } ∧
    writeIo io .usdBlkAddrL v = { io with usd := { io.usd with blkAddrL := v } } ∧
    writeIo io .ioPort v = { io with ioPort := b } ∧
    writeIo io .adcRef v = { io with adcRef := b } ∧
    writeIo io .outPortHi v = { io with outPortHi := { isOutput := v.getLsbD 7, value := v.extractLsb' 0 4 } } ∧
    writeIo io .spiData v = { io with spiData := b } ∧
    writeIo io .spiSclk v = { io with spiSclk := b } ∧
    writeIo io .pioMask v = { io with pioMask := b } ∧
    writeIo io .pioXor v = { io with pioXor := b } ∧
    writeIo io .rn4020Cmd v = { io with rn4020Cmd := v.extractLsb' 0 4, rn4020CmdInitial := false } ∧
    writeIo io .rn4020Ram v = { io with rn4020Ram := b } ∧
    writeIo io .tecDSw v = { io with tecDSw := b } ∧
    writeIo io .tecFnc v = { io with tecFnc := b } ∧
    writeIo io .tecCtl v = { io with tecCtl := b } ∧
    writeIo io .consoleData v = { io with consoleData := v } ∧
    writeMmu m .mmuPageTable v = { m with pageTable := v } ∧
    (∀ p : OutPort, p ∈ [.iplDetach, .mmuEnable, .mmuPageTable] ∨ (∃ k, p = .tlbHigh k ∨ p = .tlbLow k) →
      writeIo io p v = io) ∧
    (∀ k : Fin 8,
      writeMmu m (.tlbHigh k) v = { m with tlb := m.tlb.set k { m.tlb[k] with page := b } } ∧
      writeMmu m (.tlbLow k) v = { m with tlb := m.tlb.set k { m.tlb[k] with
        valid := v.getLsbD 15, reference := v.getLsbD 12, dirty := v.getLsbD 11, canRead := v.getLsbD 10,
        canWrite := v.getLsbD 9, canExecute := v.getLsbD 8, frame := b } }) ∧
    (∀ p : OutPort, (∀ k, p ≠ .tlbHigh k ∧ p ≠ .tlbLow k) → p ≠ .mmuPageTable → p ≠ .mmuEnable → writeMmu m p v = m) ∧
    (∀ (p : OutPort) (attached : Bool), p ≠ .iplDetach → writeIpl attached p v = attached) ∧
    ∀ s : State, (readPort { s with io := writeIo s.io .rn4020Ram v } .rn4020Ram).1 = 0#8 ++ b

/-- The layout of a TLB entry: the upper word has PAGE in bits 7..0; the lower word V 15, R 12, D 11, the access rights R
W X in 10, 9, 8, and FRAME in 7..0. An OUT to one of its two ports sets exactly those fields of that entry and leaves the
other word, the other entries and the MMU's other registers as they were; written through both, the entry reads back, but
for the undefined bits 14 and 13 of the lower word, which read as free bits (log 35). -/
def Obligations.TlbEntryReadsBack : Prop :=
  ∀ (s : State) (k j : Fin 8) (hi lo : Word) (m m' : Mmu),
    writeMmu m (.tlbHigh k) hi = { m with tlb := m.tlb.set k { m.tlb[k] with page := hi.extractLsb' 0 8 } } ∧
    writeMmu m (.tlbLow k) lo = { m with tlb := m.tlb.set k { m.tlb[k] with
      valid := lo.getLsbD 15
      reference := lo.getLsbD 12
      dirty := lo.getLsbD 11
      canRead := lo.getLsbD 10
      canWrite := lo.getLsbD 9
      canExecute := lo.getLsbD 8
      frame := lo.extractLsb' 0 8 } } ∧
    (m' = writeMmu (writeMmu m (.tlbHigh k) hi) (.tlbLow k) lo →
      (readPort { s with mmu := m' } (.tlbHigh k)).1 = 0#8 ++ hi.extractLsb' 0 8 ∧
      (readPort { s with mmu := m' } (.tlbLow k)).1 =
        (lo &&& 0x9FFF#16) ||| (Config.freeWord s.draws &&& 0x6000#16) ∧
      (j ≠ k → m'.tlb[j] = m.tlb[j]))

/-! ### Traps and system instructions -/

/-- Trap entry: P set, E cleared, the saved PC and below it the old FLAG on SSP, the PC from the vector; no other byte
and nothing else changes (92 D11, log 18). The vector word is readable and not overwritten by the frame. -/
def Obligations.TrapEntryEffect : Prop :=
  ∀ (s : State) (vec saved handler : Word),
    s.mmu.enabled = false → s.ssp.toNat % 2 = 0 → s.inRom (s.ssp - 2#16) = false → s.inRom (s.ssp - 4#16) = false →
    vec ≠ s.ssp - 2#16 → vec ≠ s.ssp - 4#16 → readWord s vec = .value handler →
    ∃ t, trapEntry vec saved s = .next t ∧
      readWord t (s.ssp - 2#16) = .value saved ∧ readWord t (s.ssp - 4#16) = .value s.flag.toWord ∧
      (∀ x, x ≠ s.ssp - 1#16 → x ≠ s.ssp - 2#16 → x ≠ s.ssp - 3#16 → x ≠ s.ssp - 4#16 →
        t.byteAt? x = s.byteAt? x ∧ Memory.read? t.mem x.toNat = Memory.read? s.mem x.toNat) ∧
      t = { s with
        flag := { s.flag with p := true, e := false }
        ssp := s.ssp - 4#16
        pc := handler
        mem := t.mem }

/-- SVC takes the trap through FFFEh with the address after it saved, in either mode (92 D11, D12; logs 18, 19). -/
def Obligations.SvcEntersThroughItsVector : Prop :=
  ∀ (s : State) (handler : Word),
    s.mmu.enabled = false → s.ssp.toNat % 2 = 0 → s.inRom (s.ssp - 2#16) = false → s.inRom (s.ssp - 4#16) = false →
    s.ssp ≠ 0x0000#16 → s.ssp ≠ 0x0002#16 → readWord s 0xFFFE#16 = .value handler →
    ∃ t, exec .svc s = .next t ∧
      readWord t (s.ssp - 2#16) = .value (s.pc + 2#16) ∧ readWord t (s.ssp - 4#16) = .value s.flag.toWord ∧
      (∀ x, x ≠ s.ssp - 1#16 → x ≠ s.ssp - 2#16 → x ≠ s.ssp - 3#16 → x ≠ s.ssp - 4#16 →
        t.byteAt? x = s.byteAt? x ∧ Memory.read? t.mem x.toNat = Memory.read? s.mem x.toNat) ∧
      t = { s with
        flag := { s.flag with p := true, e := false }
        ssp := s.ssp - 4#16
        pc := handler
        mem := t.mem }

/-- HALT in user mode, and IN and OUT with neither P nor I, take the trap through FFFAh from the state they began in, with
the address of the instruction itself saved. -/
def Obligations.PrivilegeViolationsTrap : Prop :=
  ∀ (s : State) (rd : Reg) (port : PortOperand), s.flag.p = false →
    exec .halt s = trapEntry 0xFFFA#16 s.pc s ∧
    (s.flag.i = false →
      exec (.inp rd port) s = trapEntry 0xFFFA#16 s.pc s ∧ exec (.out rd port) s = trapEntry 0xFFFA#16 s.pc s)

/-- HALT in privileged mode halts with the PC behind it and changes nothing else, and a halted machine has no step
(92 D15, D31; logs 23, 32). -/
def Obligations.HaltStopsInPrivilegedMode : Prop :=
  ∀ s : State, s.flag.p = true →
    exec .halt s = .next { s with halted := true, pc := s.pc + 2#16 } ∧
    ∀ t : State, t.halted = true → step t = .fault .halted

/-- RETI pops FLAG and then the PC from the stack in use at its start; in user mode E, P and I are kept (92 D35, log
38). -/
def Obligations.RetiPopsFlagAndPc : Prop :=
  ∀ (s : State) (f p sp : Word), sp = s.readReg .sp →
    readWord s sp = .value f → readWord s (sp + 2#16) = .value p →
    exec .reti s = .next { s.writeReg .sp (sp + 4#16) with
      flag := if s.flag.p = true then Flag.ofWord f
        else { Flag.ofWord f with e := s.flag.e, p := s.flag.p, i := s.flag.i }
      pc := p }

/-- RETI undoes a trap entry: from any mode, a handler that executes it with the stack as it found it goes on at the saved
PC with every register, FLAG included, as before the entry. -/
def Obligations.RetiUndoesTrapEntry : Prop :=
  ∀ (s t : State) (vec saved here : Word), trapEntry vec saved s = .next t →
    exec .reti { t with pc := here } = .next { s with mem := t.mem, pc := saved }

/-! ### Reset and the host's moves -/

/-- What the source itself says of reset: the IPL ROM is attached and shows over E000h..FFFFh, RN4020-Cmd
is 0001, RN4020-RAM is not affected. -/
def Obligations.ResetFactsOfTheSource : Prop :=
  State.reset.iplAttached = true ∧
  (∀ a : Word, 0xE000 ≤ a.toNat →
    State.reset.byteAt? a = some (Config.iplImage (BitVec.ofNat 13 (a.toNat - 0xE000)))) ∧
  State.reset.io.rn4020Cmd = 0b0001#4 ∧
  ∀ s : State, s.resetFrom.iplAttached = true ∧ s.resetFrom.io.rn4020Cmd = 0b0001#4 ∧
    s.resetFrom.io.rn4020Ram = s.io.rn4020Ram

/-- The rest of the reset state that the spec decides: execution at E000h in privileged mode with interrupts, the MMU and
every device enable off, and no byte of RAM with a value, the RAM under the ROM included (92 D30, D36; logs 4, 31). A reset
during a run leaves the same, whatever the state before it (log 46). -/
def Obligations.ResetState : Prop :=
  ∀ s r : State, (r = State.reset ∨ r = hostMove .reset s) →
    r.pc = 0xE000#16 ∧ r.flag.toWord = 0x0040#16 ∧ r.halted = false ∧
    r.irq = 0#10 ∧ r.mmu.enabled = false ∧
    (∀ k : IntSource, r.io.intEnable k = false) ∧
    r.io.timer0.start = false ∧ r.io.timer1.start = false ∧
    (∀ a : Word, Memory.read? r.mem a.toNat = none) ∧
    (∀ a : Word, a.toNat < 0xE000 → r.byteAt? a = none)

/-! ### Whole-machine rules -/

/-- The invariant holds after reset. -/
def Obligations.InvAtReset : Prop := State.reset.Inv

/-- Every step keeps the invariant: memory in its canonical form, the MMU off. -/
def Obligations.StepKeepsInv : Prop :=
  ∀ s t : State, s.Inv → step s = .next t → t.Inv

/-- Every move of the host keeps the invariant, from any state that has it, as every step does; so every state that steps
and host moves reach from reset has it (logs 21, 39). -/
def Obligations.ReachableStatesHaveInv : Prop :=
  (∀ (m : HostMove) (s : State), s.Inv → (hostMove m s).Inv) ∧ ∀ s : State, Reachable s → s.Inv

/-- In user mode no step changes E, P, I or SSP, but by entering a trap: a trap entry through one of the sixteen vectors
from the state before the step, a request cleared or cause and address of a bad access recorded at most, with the PC of
the instruction or the one after it saved. It sets P, clears E, keeps the rest of FLAG, leaves the saved PC and the old
FLAG on SSP, and leaves the general registers, FP and USP alone (92 D11, D16; logs 18, 24). -/
def Obligations.UserModeIsLeftOnlyByTrapEntry : Prop :=
  ∀ s t : State, s.flag.p = false → step s = .next t →
    (t.flag.p = false ∧ t.flag.e = s.flag.e ∧ t.flag.i = s.flag.i ∧ t.ssp = s.ssp) ∨
    (∃ (k : Fin 16) (saved : Word) (irq' : BitVec 10) (mmu' : Mmu),
      trapEntry (BitVec.ofNat 16 (0xFFE0 + 2 * k.val)) saved { s with irq := irq', mmu := mmu' } = .next t ∧
      (saved = s.pc ∨ saved = s.pc + 2#16) ∧
      (∀ j, irq'.getLsbD j = true → s.irq.getLsbD j = true) ∧
      (mmu' = s.mmu ∨ ∃ a, mmu' = { s.mmu with cause := 0x0002#16, violAddr := a }) ∧
      readWord t (s.ssp - 2#16) = .value saved ∧ readWord t (s.ssp - 4#16) = .value s.flag.toWord ∧
      t.flag = { s.flag with p := true, e := false } ∧ t.ssp = s.ssp - 4#16 ∧
      t.g = s.g ∧ t.fp = s.fp ∧ t.usp = s.usp)

/-- Once the IPL ROM is detached no step attaches it again. -/
def Obligations.IplStaysDetached : Prop :=
  ∀ s t : State, s.iplAttached = false → step s = .next t → t.iplAttached = false

/-- Only ST, PUSH and CALL store: any other instruction leaves every byte of RAM as it was, unless it takes an exception,
whose frame is the four bytes below SSP. -/
def Obligations.OnlyStoringInstructionsWriteMemory : Prop :=
  ∀ (i : Instr) (s t : State),
    (∀ rd dst, i ≠ .st rd dst) → (∀ rd, i ≠ .push rd) → (∀ tgt, i ≠ .call tgt) → exec i s = .next t →
    t.mem = s.mem ∨
    (t.flag = { s.flag with p := true, e := false } ∧ t.ssp = s.ssp - 4#16 ∧
      ∀ x, x ≠ s.ssp - 1#16 → x ≠ s.ssp - 2#16 → x ≠ s.ssp - 3#16 → x ≠ s.ssp - 4#16 →
        t.byteAt? x = s.byteAt? x ∧ Memory.read? t.mem x.toNat = Memory.read? s.mem x.toNat)
end

