-- ==== Sys2Proof/Laws/Decode.lean ====
section
/-! SUPPORT. Small lemmas of the decoder and encoder: register fields, the fields of a first word. -/

namespace Sys2Proof

/-- A register's field names it again (10_state.md R22). -/
@[simp] theorem ofCode_code (r : Reg) : Reg.ofCode r.code = r := by
  cases r with
  | g n => revert n; decide
  | fp => decide
  | sp => decide
  | usp => decide
  | flag => decide

/-- Every field value is some register's. -/
@[simp] theorem code_ofCode (c : BitVec 4) : (Reg.ofCode c).code = c := by
  revert c; decide

/-- The four fields of a first word (30_encoding.md R80). -/
@[simp] theorem opField_mkFirst (op5 : BitVec 5) (form : BitVec 3) (rd lo : BitVec 4) :
    opField (mkFirst op5 form rd lo) = op5 := by
  apply BitVec.eq_of_getLsbD_eq
  intro i hi
  simp only [opField, mkFirst, BitVec.getLsbD_extractLsb', BitVec.getLsbD_append]
  have h1 : ¬ 11 + i < 4 := by omega
  have h2 : ¬ 11 + i - 4 < 4 := by omega
  have h3 : ¬ 11 + i - 4 - 4 < 3 := by omega
  have h4 : 11 + i - 4 - 4 - 3 = i := by omega
  simp only [h1, h2, h3, h4, hi, if_false, decide_true, Bool.true_and]

@[simp] theorem formField_mkFirst (op5 : BitVec 5) (form : BitVec 3) (rd lo : BitVec 4) :
    formField (mkFirst op5 form rd lo) = form := by
  apply BitVec.eq_of_getLsbD_eq
  intro i hi
  simp only [formField, mkFirst, BitVec.getLsbD_extractLsb', BitVec.getLsbD_append]
  have h1 : ¬ 8 + i < 4 := by omega
  have h2 : ¬ 8 + i - 4 < 4 := by omega
  have h3 : 8 + i - 4 - 4 = i := by omega
  simp only [h1, h2, h3, hi, if_false, if_true, decide_true, Bool.true_and]

@[simp] theorem rdField_mkFirst (op5 : BitVec 5) (form : BitVec 3) (rd lo : BitVec 4) :
    rdField (mkFirst op5 form rd lo) = rd := by
  apply BitVec.eq_of_getLsbD_eq
  intro i hi
  simp only [rdField, mkFirst, BitVec.getLsbD_extractLsb', BitVec.getLsbD_append]
  have h1 : ¬ 4 + i < 4 := by omega
  have h2 : 4 + i - 4 = i := by omega
  simp only [h1, h2, hi, if_false, if_true, decide_true, Bool.true_and]

@[simp] theorem loField_mkFirst (op5 : BitVec 5) (form : BitVec 3) (rd lo : BitVec 4) :
    loField (mkFirst op5 form rd lo) = lo := by
  apply BitVec.eq_of_getLsbD_eq
  intro i hi
  simp only [loField, mkFirst, BitVec.getLsbD_extractLsb', BitVec.getLsbD_append, Nat.zero_add]
  simp only [hi, if_true, decide_true, Bool.true_and]

/-- A first word is made of its fields. -/
@[simp] theorem mkFirst_fields (w : Word) : mkFirst (opField w) (formField w) (rdField w) (loField w) = w := by
  apply BitVec.eq_of_getLsbD_eq
  intro i hi
  simp only [mkFirst, opField, formField, rdField, loField, BitVec.getLsbD_extractLsb', BitVec.getLsbD_append]
  by_cases h1 : i < 4
  · simp [h1]
  · by_cases h2 : i - 4 < 4
    · have : 4 + (i - 4) = i := by omega
      simp [h1, h2, this]
    · by_cases h3 : i - 4 - 4 < 3
      · have : 8 + (i - 4 - 4) = i := by omega
        simp [h1, h2, h3, this]
      · have h5 : i - 4 - 4 - 3 < 5 := by omega
        have : 11 + (i - 4 - 4 - 3) = i := by omega
        simp [h1, h2, h3, h5, this]

/-- Decoding a word made of fields is decoding the fields. -/
@[simp] theorem decodeFirst_mkFirst (op5 : BitVec 5) (form : BitVec 3) (rd lo : BitVec 4) :
    decodeFirst (mkFirst op5 form rd lo) = decodeFields op5 form rd lo := by
  simp [decodeFirst]

end Sys2Proof
end

