-- ==== Sys2Proof/Laws/Memory.lean ====
section
/-! SUPPORT. Read after write, and that a write keeps the canonical form. -/

namespace Sys2Proof.Machine

@[simp] theorem read_nil (a : Nat) : Memory.read? [] a = none := rfl

/-- A read of the byte just written. -/
@[simp] theorem read_write_same (m : Memory) (a : Nat) (b : Byte) : Memory.read? (Memory.write m a b) a = some b := by
  induction m with
  | nil => simp [Memory.write, Memory.read?]
  | cons c rest ih =>
    obtain ⟨k, v⟩ := c
    unfold Memory.write
    split
    · simp [Memory.read?]
    · split
      · simp [Memory.read?]
      · rename_i _ hne
        simp [Memory.read?, hne, ih]

/-- A write leaves every other byte alone. -/
theorem read_write_other (m : Memory) {a x : Nat} (b : Byte) (h : x ≠ a) :
    Memory.read? (Memory.write m a b) x = Memory.read? m x := by
  induction m with
  | nil => simp [Memory.write, Memory.read?, h, Memory.unlisted]
  | cons c rest ih =>
    obtain ⟨k, v⟩ := c
    unfold Memory.write
    split
    · simp [Memory.read?, h]
    · split
      · rename_i _ hk
        subst hk
        simp [Memory.read?, h]
      · simp only [Memory.read?]
        split
        · rfl
        · exact ih

/-- Read after write, both cases at once. -/
theorem read_write (m : Memory) (a x : Nat) (b : Byte) :
    Memory.read? (Memory.write m a b) x = if x = a then some b else Memory.read? m x := by
  split
  · rename_i h
    subst h
    simp
  · rename_i h
    exact read_write_other m b h

/-- Every key of a written memory is the new one or an old one. -/
theorem all_gt_write {m : Memory} {a j : Nat} {b : Byte} (hm : m.all (fun c => decide (j < c.1)) = true) (ha : j < a) :
    (Memory.write m a b).all (fun c => decide (j < c.1)) = true := by
  induction m with
  | nil => simp [Memory.write, ha]
  | cons c rest ih =>
    obtain ⟨k, v⟩ := c
    rw [List.all_cons, Bool.and_eq_true, decide_eq_true_eq] at hm
    obtain ⟨hk, hr⟩ := hm
    unfold Memory.write
    split
    · rw [List.all_cons, List.all_cons, hr]
      simp [ha, hk]
    · split
      · rw [List.all_cons, hr]
        simp [ha]
      · rw [List.all_cons, ih hr]
        simp [hk]

/-- A write at an address of the space keeps the canonical form. -/
theorem wf_write {m : Memory} {a : Nat} {b : Byte} (hm : Memory.wf m = true) (ha : a < 65536) :
    Memory.wf (Memory.write m a b) = true := by
  induction m with
  | nil => simp [Memory.write, Memory.wf, ha]
  | cons c rest ih =>
    obtain ⟨k, v⟩ := c
    simp only [Memory.wf, Bool.and_eq_true, decide_eq_true_eq] at hm
    obtain ⟨⟨hk, hall⟩, hr⟩ := hm
    unfold Memory.write
    split
    · rename_i hlt
      have hall' : rest.all (fun c => decide (a < c.1)) = true := by
        rw [List.all_eq_true] at hall ⊢
        intro c hc
        have := hall c hc
        simp only [decide_eq_true_eq] at this ⊢
        omega
      simp [Memory.wf, -List.all_eq_true, hr, hall, hall', ha, hk, hlt]
    · split
      · rename_i _ heq
        subst heq
        simp [Memory.wf, -List.all_eq_true, hr, hall, ha]
      · have hka : k < a := by omega
        simp [Memory.wf, -List.all_eq_true, ih hr, all_gt_write hall hka, hk]

end Sys2Proof.Machine
end

