-- ==== Sys2Proof/Laws/State.lean ====
section
/-! SUPPORT. One lemma per field per named update of the state, so that no later proof unfolds a record update. -/

namespace Sys2Proof.Machine

/-! ### `setPc` -/

@[simp] theorem setPc_g (s : State) (v : Word) : (s.setPc v).g = s.g := rfl
@[simp] theorem setPc_fp (s : State) (v : Word) : (s.setPc v).fp = s.fp := rfl
@[simp] theorem setPc_ssp (s : State) (v : Word) : (s.setPc v).ssp = s.ssp := rfl
@[simp] theorem setPc_usp (s : State) (v : Word) : (s.setPc v).usp = s.usp := rfl
@[simp] theorem setPc_pc (s : State) (v : Word) : (s.setPc v).pc = v := rfl
@[simp] theorem setPc_flag (s : State) (v : Word) : (s.setPc v).flag = s.flag := rfl
@[simp] theorem setPc_halted (s : State) (v : Word) : (s.setPc v).halted = s.halted := rfl
@[simp] theorem setPc_irq (s : State) (v : Word) : (s.setPc v).irq = s.irq := rfl
@[simp] theorem setPc_iplAttached (s : State) (v : Word) : (s.setPc v).iplAttached = s.iplAttached := rfl
@[simp] theorem setPc_mmu (s : State) (v : Word) : (s.setPc v).mmu = s.mmu := rfl
@[simp] theorem setPc_io (s : State) (v : Word) : (s.setPc v).io = s.io := rfl
@[simp] theorem setPc_mem (s : State) (v : Word) : (s.setPc v).mem = s.mem := rfl
@[simp] theorem setPc_draws (s : State) (v : Word) : (s.setPc v).draws = s.draws := rfl
@[simp] theorem setPc_outEvents (s : State) (v : Word) : (s.setPc v).outEvents = s.outEvents := rfl

/-! ### `setSsp` -/

@[simp] theorem setSsp_g (s : State) (v : Word) : (s.setSsp v).g = s.g := rfl
@[simp] theorem setSsp_fp (s : State) (v : Word) : (s.setSsp v).fp = s.fp := rfl
@[simp] theorem setSsp_ssp (s : State) (v : Word) : (s.setSsp v).ssp = v := rfl
@[simp] theorem setSsp_usp (s : State) (v : Word) : (s.setSsp v).usp = s.usp := rfl
@[simp] theorem setSsp_pc (s : State) (v : Word) : (s.setSsp v).pc = s.pc := rfl
@[simp] theorem setSsp_flag (s : State) (v : Word) : (s.setSsp v).flag = s.flag := rfl
@[simp] theorem setSsp_halted (s : State) (v : Word) : (s.setSsp v).halted = s.halted := rfl
@[simp] theorem setSsp_irq (s : State) (v : Word) : (s.setSsp v).irq = s.irq := rfl
@[simp] theorem setSsp_iplAttached (s : State) (v : Word) : (s.setSsp v).iplAttached = s.iplAttached := rfl
@[simp] theorem setSsp_mmu (s : State) (v : Word) : (s.setSsp v).mmu = s.mmu := rfl
@[simp] theorem setSsp_io (s : State) (v : Word) : (s.setSsp v).io = s.io := rfl
@[simp] theorem setSsp_mem (s : State) (v : Word) : (s.setSsp v).mem = s.mem := rfl
@[simp] theorem setSsp_draws (s : State) (v : Word) : (s.setSsp v).draws = s.draws := rfl
@[simp] theorem setSsp_outEvents (s : State) (v : Word) : (s.setSsp v).outEvents = s.outEvents := rfl

/-! ### `setUsp` -/

@[simp] theorem setUsp_g (s : State) (v : Word) : (s.setUsp v).g = s.g := rfl
@[simp] theorem setUsp_fp (s : State) (v : Word) : (s.setUsp v).fp = s.fp := rfl
@[simp] theorem setUsp_ssp (s : State) (v : Word) : (s.setUsp v).ssp = s.ssp := rfl
@[simp] theorem setUsp_usp (s : State) (v : Word) : (s.setUsp v).usp = v := rfl
@[simp] theorem setUsp_pc (s : State) (v : Word) : (s.setUsp v).pc = s.pc := rfl
@[simp] theorem setUsp_flag (s : State) (v : Word) : (s.setUsp v).flag = s.flag := rfl
@[simp] theorem setUsp_halted (s : State) (v : Word) : (s.setUsp v).halted = s.halted := rfl
@[simp] theorem setUsp_irq (s : State) (v : Word) : (s.setUsp v).irq = s.irq := rfl
@[simp] theorem setUsp_iplAttached (s : State) (v : Word) : (s.setUsp v).iplAttached = s.iplAttached := rfl
@[simp] theorem setUsp_mmu (s : State) (v : Word) : (s.setUsp v).mmu = s.mmu := rfl
@[simp] theorem setUsp_io (s : State) (v : Word) : (s.setUsp v).io = s.io := rfl
@[simp] theorem setUsp_mem (s : State) (v : Word) : (s.setUsp v).mem = s.mem := rfl
@[simp] theorem setUsp_draws (s : State) (v : Word) : (s.setUsp v).draws = s.draws := rfl
@[simp] theorem setUsp_outEvents (s : State) (v : Word) : (s.setUsp v).outEvents = s.outEvents := rfl

/-! ### `setFlag` -/

@[simp] theorem setFlag_g (s : State) (v : Flag) : (s.setFlag v).g = s.g := rfl
@[simp] theorem setFlag_fp (s : State) (v : Flag) : (s.setFlag v).fp = s.fp := rfl
@[simp] theorem setFlag_ssp (s : State) (v : Flag) : (s.setFlag v).ssp = s.ssp := rfl
@[simp] theorem setFlag_usp (s : State) (v : Flag) : (s.setFlag v).usp = s.usp := rfl
@[simp] theorem setFlag_pc (s : State) (v : Flag) : (s.setFlag v).pc = s.pc := rfl
@[simp] theorem setFlag_flag (s : State) (v : Flag) : (s.setFlag v).flag = v := rfl
@[simp] theorem setFlag_halted (s : State) (v : Flag) : (s.setFlag v).halted = s.halted := rfl
@[simp] theorem setFlag_irq (s : State) (v : Flag) : (s.setFlag v).irq = s.irq := rfl
@[simp] theorem setFlag_iplAttached (s : State) (v : Flag) : (s.setFlag v).iplAttached = s.iplAttached := rfl
@[simp] theorem setFlag_mmu (s : State) (v : Flag) : (s.setFlag v).mmu = s.mmu := rfl
@[simp] theorem setFlag_io (s : State) (v : Flag) : (s.setFlag v).io = s.io := rfl
@[simp] theorem setFlag_mem (s : State) (v : Flag) : (s.setFlag v).mem = s.mem := rfl
@[simp] theorem setFlag_draws (s : State) (v : Flag) : (s.setFlag v).draws = s.draws := rfl
@[simp] theorem setFlag_outEvents (s : State) (v : Flag) : (s.setFlag v).outEvents = s.outEvents := rfl

/-! ### `setMem` -/

@[simp] theorem setMem_g (s : State) (v : Memory) : (s.setMem v).g = s.g := rfl
@[simp] theorem setMem_fp (s : State) (v : Memory) : (s.setMem v).fp = s.fp := rfl
@[simp] theorem setMem_ssp (s : State) (v : Memory) : (s.setMem v).ssp = s.ssp := rfl
@[simp] theorem setMem_usp (s : State) (v : Memory) : (s.setMem v).usp = s.usp := rfl
@[simp] theorem setMem_pc (s : State) (v : Memory) : (s.setMem v).pc = s.pc := rfl
@[simp] theorem setMem_flag (s : State) (v : Memory) : (s.setMem v).flag = s.flag := rfl
@[simp] theorem setMem_halted (s : State) (v : Memory) : (s.setMem v).halted = s.halted := rfl
@[simp] theorem setMem_irq (s : State) (v : Memory) : (s.setMem v).irq = s.irq := rfl
@[simp] theorem setMem_iplAttached (s : State) (v : Memory) : (s.setMem v).iplAttached = s.iplAttached := rfl
@[simp] theorem setMem_mmu (s : State) (v : Memory) : (s.setMem v).mmu = s.mmu := rfl
@[simp] theorem setMem_io (s : State) (v : Memory) : (s.setMem v).io = s.io := rfl
@[simp] theorem setMem_mem (s : State) (v : Memory) : (s.setMem v).mem = v := rfl
@[simp] theorem setMem_draws (s : State) (v : Memory) : (s.setMem v).draws = s.draws := rfl
@[simp] theorem setMem_outEvents (s : State) (v : Memory) : (s.setMem v).outEvents = s.outEvents := rfl

/-! ### `setMmu` -/

@[simp] theorem setMmu_g (s : State) (v : Mmu) : (s.setMmu v).g = s.g := rfl
@[simp] theorem setMmu_fp (s : State) (v : Mmu) : (s.setMmu v).fp = s.fp := rfl
@[simp] theorem setMmu_ssp (s : State) (v : Mmu) : (s.setMmu v).ssp = s.ssp := rfl
@[simp] theorem setMmu_usp (s : State) (v : Mmu) : (s.setMmu v).usp = s.usp := rfl
@[simp] theorem setMmu_pc (s : State) (v : Mmu) : (s.setMmu v).pc = s.pc := rfl
@[simp] theorem setMmu_flag (s : State) (v : Mmu) : (s.setMmu v).flag = s.flag := rfl
@[simp] theorem setMmu_halted (s : State) (v : Mmu) : (s.setMmu v).halted = s.halted := rfl
@[simp] theorem setMmu_irq (s : State) (v : Mmu) : (s.setMmu v).irq = s.irq := rfl
@[simp] theorem setMmu_iplAttached (s : State) (v : Mmu) : (s.setMmu v).iplAttached = s.iplAttached := rfl
@[simp] theorem setMmu_mmu (s : State) (v : Mmu) : (s.setMmu v).mmu = v := rfl
@[simp] theorem setMmu_io (s : State) (v : Mmu) : (s.setMmu v).io = s.io := rfl
@[simp] theorem setMmu_mem (s : State) (v : Mmu) : (s.setMmu v).mem = s.mem := rfl
@[simp] theorem setMmu_draws (s : State) (v : Mmu) : (s.setMmu v).draws = s.draws := rfl
@[simp] theorem setMmu_outEvents (s : State) (v : Mmu) : (s.setMmu v).outEvents = s.outEvents := rfl

/-! ### `setIo` -/

@[simp] theorem setIo_g (s : State) (v : Io) : (s.setIo v).g = s.g := rfl
@[simp] theorem setIo_fp (s : State) (v : Io) : (s.setIo v).fp = s.fp := rfl
@[simp] theorem setIo_ssp (s : State) (v : Io) : (s.setIo v).ssp = s.ssp := rfl
@[simp] theorem setIo_usp (s : State) (v : Io) : (s.setIo v).usp = s.usp := rfl
@[simp] theorem setIo_pc (s : State) (v : Io) : (s.setIo v).pc = s.pc := rfl
@[simp] theorem setIo_flag (s : State) (v : Io) : (s.setIo v).flag = s.flag := rfl
@[simp] theorem setIo_halted (s : State) (v : Io) : (s.setIo v).halted = s.halted := rfl
@[simp] theorem setIo_irq (s : State) (v : Io) : (s.setIo v).irq = s.irq := rfl
@[simp] theorem setIo_iplAttached (s : State) (v : Io) : (s.setIo v).iplAttached = s.iplAttached := rfl
@[simp] theorem setIo_mmu (s : State) (v : Io) : (s.setIo v).mmu = s.mmu := rfl
@[simp] theorem setIo_io (s : State) (v : Io) : (s.setIo v).io = v := rfl
@[simp] theorem setIo_mem (s : State) (v : Io) : (s.setIo v).mem = s.mem := rfl
@[simp] theorem setIo_draws (s : State) (v : Io) : (s.setIo v).draws = s.draws := rfl
@[simp] theorem setIo_outEvents (s : State) (v : Io) : (s.setIo v).outEvents = s.outEvents := rfl

/-! ### `setIrq` -/

@[simp] theorem setIrq_g (s : State) (v : BitVec 10) : (s.setIrq v).g = s.g := rfl
@[simp] theorem setIrq_fp (s : State) (v : BitVec 10) : (s.setIrq v).fp = s.fp := rfl
@[simp] theorem setIrq_ssp (s : State) (v : BitVec 10) : (s.setIrq v).ssp = s.ssp := rfl
@[simp] theorem setIrq_usp (s : State) (v : BitVec 10) : (s.setIrq v).usp = s.usp := rfl
@[simp] theorem setIrq_pc (s : State) (v : BitVec 10) : (s.setIrq v).pc = s.pc := rfl
@[simp] theorem setIrq_flag (s : State) (v : BitVec 10) : (s.setIrq v).flag = s.flag := rfl
@[simp] theorem setIrq_halted (s : State) (v : BitVec 10) : (s.setIrq v).halted = s.halted := rfl
@[simp] theorem setIrq_irq (s : State) (v : BitVec 10) : (s.setIrq v).irq = v := rfl
@[simp] theorem setIrq_iplAttached (s : State) (v : BitVec 10) : (s.setIrq v).iplAttached = s.iplAttached := rfl
@[simp] theorem setIrq_mmu (s : State) (v : BitVec 10) : (s.setIrq v).mmu = s.mmu := rfl
@[simp] theorem setIrq_io (s : State) (v : BitVec 10) : (s.setIrq v).io = s.io := rfl
@[simp] theorem setIrq_mem (s : State) (v : BitVec 10) : (s.setIrq v).mem = s.mem := rfl
@[simp] theorem setIrq_draws (s : State) (v : BitVec 10) : (s.setIrq v).draws = s.draws := rfl
@[simp] theorem setIrq_outEvents (s : State) (v : BitVec 10) : (s.setIrq v).outEvents = s.outEvents := rfl

/-! ### `setDraws` -/

@[simp] theorem setDraws_g (s : State) (v : Nat) : (s.setDraws v).g = s.g := rfl
@[simp] theorem setDraws_fp (s : State) (v : Nat) : (s.setDraws v).fp = s.fp := rfl
@[simp] theorem setDraws_ssp (s : State) (v : Nat) : (s.setDraws v).ssp = s.ssp := rfl
@[simp] theorem setDraws_usp (s : State) (v : Nat) : (s.setDraws v).usp = s.usp := rfl
@[simp] theorem setDraws_pc (s : State) (v : Nat) : (s.setDraws v).pc = s.pc := rfl
@[simp] theorem setDraws_flag (s : State) (v : Nat) : (s.setDraws v).flag = s.flag := rfl
@[simp] theorem setDraws_halted (s : State) (v : Nat) : (s.setDraws v).halted = s.halted := rfl
@[simp] theorem setDraws_irq (s : State) (v : Nat) : (s.setDraws v).irq = s.irq := rfl
@[simp] theorem setDraws_iplAttached (s : State) (v : Nat) : (s.setDraws v).iplAttached = s.iplAttached := rfl
@[simp] theorem setDraws_mmu (s : State) (v : Nat) : (s.setDraws v).mmu = s.mmu := rfl
@[simp] theorem setDraws_io (s : State) (v : Nat) : (s.setDraws v).io = s.io := rfl
@[simp] theorem setDraws_mem (s : State) (v : Nat) : (s.setDraws v).mem = s.mem := rfl
@[simp] theorem setDraws_draws (s : State) (v : Nat) : (s.setDraws v).draws = v := rfl
@[simp] theorem setDraws_outEvents (s : State) (v : Nat) : (s.setDraws v).outEvents = s.outEvents := rfl

/-! ### `setVcsz` -/

@[simp] theorem setVcsz_g (s : State) (v c sg z : Bool) : (s.setVcsz v c sg z).g = s.g := rfl
@[simp] theorem setVcsz_fp (s : State) (v c sg z : Bool) : (s.setVcsz v c sg z).fp = s.fp := rfl
@[simp] theorem setVcsz_ssp (s : State) (v c sg z : Bool) : (s.setVcsz v c sg z).ssp = s.ssp := rfl
@[simp] theorem setVcsz_usp (s : State) (v c sg z : Bool) : (s.setVcsz v c sg z).usp = s.usp := rfl
@[simp] theorem setVcsz_pc (s : State) (v c sg z : Bool) : (s.setVcsz v c sg z).pc = s.pc := rfl
@[simp] theorem setVcsz_flag (s : State) (v c sg z : Bool) : (s.setVcsz v c sg z).flag = s.flag.setVcsz v c sg z := rfl
@[simp] theorem setVcsz_halted (s : State) (v c sg z : Bool) : (s.setVcsz v c sg z).halted = s.halted := rfl
@[simp] theorem setVcsz_irq (s : State) (v c sg z : Bool) : (s.setVcsz v c sg z).irq = s.irq := rfl
@[simp] theorem setVcsz_iplAttached (s : State) (v c sg z : Bool) : (s.setVcsz v c sg z).iplAttached = s.iplAttached := rfl
@[simp] theorem setVcsz_mmu (s : State) (v c sg z : Bool) : (s.setVcsz v c sg z).mmu = s.mmu := rfl
@[simp] theorem setVcsz_io (s : State) (v c sg z : Bool) : (s.setVcsz v c sg z).io = s.io := rfl
@[simp] theorem setVcsz_mem (s : State) (v c sg z : Bool) : (s.setVcsz v c sg z).mem = s.mem := rfl
@[simp] theorem setVcsz_draws (s : State) (v c sg z : Bool) : (s.setVcsz v c sg z).draws = s.draws := rfl
@[simp] theorem setVcsz_outEvents (s : State) (v c sg z : Bool) : (s.setVcsz v c sg z).outEvents = s.outEvents := rfl

/-! ### `tookDraw` -/

@[simp] theorem tookDraw_g (s : State) : (s.tookDraw).g = s.g := rfl
@[simp] theorem tookDraw_fp (s : State) : (s.tookDraw).fp = s.fp := rfl
@[simp] theorem tookDraw_ssp (s : State) : (s.tookDraw).ssp = s.ssp := rfl
@[simp] theorem tookDraw_usp (s : State) : (s.tookDraw).usp = s.usp := rfl
@[simp] theorem tookDraw_pc (s : State) : (s.tookDraw).pc = s.pc := rfl
@[simp] theorem tookDraw_flag (s : State) : (s.tookDraw).flag = s.flag := rfl
@[simp] theorem tookDraw_halted (s : State) : (s.tookDraw).halted = s.halted := rfl
@[simp] theorem tookDraw_irq (s : State) : (s.tookDraw).irq = s.irq := rfl
@[simp] theorem tookDraw_iplAttached (s : State) : (s.tookDraw).iplAttached = s.iplAttached := rfl
@[simp] theorem tookDraw_mmu (s : State) : (s.tookDraw).mmu = s.mmu := rfl
@[simp] theorem tookDraw_io (s : State) : (s.tookDraw).io = s.io := rfl
@[simp] theorem tookDraw_mem (s : State) : (s.tookDraw).mem = s.mem := rfl
@[simp] theorem tookDraw_draws (s : State) : (s.tookDraw).draws = s.draws + 1 := rfl
@[simp] theorem tookDraw_outEvents (s : State) : (s.tookDraw).outEvents = s.outEvents := rfl

/-! ### `setFlagsOf` -/

@[simp] theorem setFlagsOf_g (s : State) (o : AluOut) : (s.setFlagsOf o).g = s.g := rfl
@[simp] theorem setFlagsOf_fp (s : State) (o : AluOut) : (s.setFlagsOf o).fp = s.fp := rfl
@[simp] theorem setFlagsOf_ssp (s : State) (o : AluOut) : (s.setFlagsOf o).ssp = s.ssp := rfl
@[simp] theorem setFlagsOf_usp (s : State) (o : AluOut) : (s.setFlagsOf o).usp = s.usp := rfl
@[simp] theorem setFlagsOf_pc (s : State) (o : AluOut) : (s.setFlagsOf o).pc = s.pc := rfl
@[simp] theorem setFlagsOf_halted (s : State) (o : AluOut) : (s.setFlagsOf o).halted = s.halted := rfl
@[simp] theorem setFlagsOf_irq (s : State) (o : AluOut) : (s.setFlagsOf o).irq = s.irq := rfl
@[simp] theorem setFlagsOf_iplAttached (s : State) (o : AluOut) : (s.setFlagsOf o).iplAttached = s.iplAttached := rfl
@[simp] theorem setFlagsOf_mmu (s : State) (o : AluOut) : (s.setFlagsOf o).mmu = s.mmu := rfl
@[simp] theorem setFlagsOf_io (s : State) (o : AluOut) : (s.setFlagsOf o).io = s.io := rfl
@[simp] theorem setFlagsOf_mem (s : State) (o : AluOut) : (s.setFlagsOf o).mem = s.mem := rfl
@[simp] theorem setFlagsOf_draws (s : State) (o : AluOut) : (s.setFlagsOf o).draws = s.draws + o.drawsTaken := rfl
@[simp] theorem setFlagsOf_outEvents (s : State) (o : AluOut) : (s.setFlagsOf o).outEvents = s.outEvents := rfl

@[simp] theorem setFlagsOf_flag (s : State) (o : AluOut) :
    (s.setFlagsOf o).flag = s.flag.setVcsz (o.v.getD (Config.freeBit s.draws))
      (o.c.getD (Config.freeBit (s.draws + 1))) (signOf o.result) (zeroOf o.result) := rfl

/-! ### `drawFlags` -/

@[simp] theorem drawFlags_g (s : State) : (s.drawFlags).g = s.g := rfl
@[simp] theorem drawFlags_fp (s : State) : (s.drawFlags).fp = s.fp := rfl
@[simp] theorem drawFlags_ssp (s : State) : (s.drawFlags).ssp = s.ssp := rfl
@[simp] theorem drawFlags_usp (s : State) : (s.drawFlags).usp = s.usp := rfl
@[simp] theorem drawFlags_pc (s : State) : (s.drawFlags).pc = s.pc := rfl
@[simp] theorem drawFlags_halted (s : State) : (s.drawFlags).halted = s.halted := rfl
@[simp] theorem drawFlags_irq (s : State) : (s.drawFlags).irq = s.irq := rfl
@[simp] theorem drawFlags_iplAttached (s : State) : (s.drawFlags).iplAttached = s.iplAttached := rfl
@[simp] theorem drawFlags_mmu (s : State) : (s.drawFlags).mmu = s.mmu := rfl
@[simp] theorem drawFlags_io (s : State) : (s.drawFlags).io = s.io := rfl
@[simp] theorem drawFlags_mem (s : State) : (s.drawFlags).mem = s.mem := rfl
@[simp] theorem drawFlags_draws (s : State) : (s.drawFlags).draws = s.draws + 4 := rfl
@[simp] theorem drawFlags_outEvents (s : State) : (s.drawFlags).outEvents = s.outEvents := rfl

/-! ### `advanceTimer` -/

@[simp] theorem advanceTimer_g (s : State) (t : TimerId) (x : Timer) : (s.advanceTimer t x).g = s.g := rfl
@[simp] theorem advanceTimer_fp (s : State) (t : TimerId) (x : Timer) : (s.advanceTimer t x).fp = s.fp := rfl
@[simp] theorem advanceTimer_ssp (s : State) (t : TimerId) (x : Timer) : (s.advanceTimer t x).ssp = s.ssp := rfl
@[simp] theorem advanceTimer_usp (s : State) (t : TimerId) (x : Timer) : (s.advanceTimer t x).usp = s.usp := rfl
@[simp] theorem advanceTimer_pc (s : State) (t : TimerId) (x : Timer) : (s.advanceTimer t x).pc = s.pc := rfl
@[simp] theorem advanceTimer_flag (s : State) (t : TimerId) (x : Timer) : (s.advanceTimer t x).flag = s.flag := rfl
@[simp] theorem advanceTimer_halted (s : State) (t : TimerId) (x : Timer) : (s.advanceTimer t x).halted = s.halted := rfl
@[simp] theorem advanceTimer_irq (s : State) (t : TimerId) (x : Timer) : (s.advanceTimer t x).irq = s.irq := rfl
@[simp] theorem advanceTimer_iplAttached (s : State) (t : TimerId) (x : Timer) : (s.advanceTimer t x).iplAttached = s.iplAttached := rfl
@[simp] theorem advanceTimer_mmu (s : State) (t : TimerId) (x : Timer) : (s.advanceTimer t x).mmu = s.mmu := rfl
@[simp] theorem advanceTimer_io (s : State) (t : TimerId) (x : Timer) : (s.advanceTimer t x).io = s.io.setTimer t x := rfl
@[simp] theorem advanceTimer_mem (s : State) (t : TimerId) (x : Timer) : (s.advanceTimer t x).mem = s.mem := rfl
@[simp] theorem advanceTimer_draws (s : State) (t : TimerId) (x : Timer) : (s.advanceTimer t x).draws = s.draws + 1 := rfl
@[simp] theorem advanceTimer_outEvents (s : State) (t : TimerId) (x : Timer) : (s.advanceTimer t x).outEvents = s.outEvents := rfl

/-! ### `setSp` -/

@[simp] theorem setSp_g (s : State) (v : Word) : (s.setSp v).g = s.g := by
  unfold State.setSp; split <;> rfl
@[simp] theorem setSp_fp (s : State) (v : Word) : (s.setSp v).fp = s.fp := by
  unfold State.setSp; split <;> rfl
@[simp] theorem setSp_pc (s : State) (v : Word) : (s.setSp v).pc = s.pc := by
  unfold State.setSp; split <;> rfl
@[simp] theorem setSp_flag (s : State) (v : Word) : (s.setSp v).flag = s.flag := by
  unfold State.setSp; split <;> rfl
@[simp] theorem setSp_halted (s : State) (v : Word) : (s.setSp v).halted = s.halted := by
  unfold State.setSp; split <;> rfl
@[simp] theorem setSp_irq (s : State) (v : Word) : (s.setSp v).irq = s.irq := by
  unfold State.setSp; split <;> rfl
@[simp] theorem setSp_iplAttached (s : State) (v : Word) : (s.setSp v).iplAttached = s.iplAttached := by
  unfold State.setSp; split <;> rfl
@[simp] theorem setSp_mmu (s : State) (v : Word) : (s.setSp v).mmu = s.mmu := by
  unfold State.setSp; split <;> rfl
@[simp] theorem setSp_io (s : State) (v : Word) : (s.setSp v).io = s.io := by
  unfold State.setSp; split <;> rfl
@[simp] theorem setSp_mem (s : State) (v : Word) : (s.setSp v).mem = s.mem := by
  unfold State.setSp; split <;> rfl
@[simp] theorem setSp_draws (s : State) (v : Word) : (s.setSp v).draws = s.draws := by
  unfold State.setSp; split <;> rfl
@[simp] theorem setSp_outEvents (s : State) (v : Word) : (s.setSp v).outEvents = s.outEvents := by
  unfold State.setSp; split <;> rfl

/-! ### `writeReg` -/

@[simp] theorem writeReg_pc (s : State) (r : Reg) (v : Word) : (s.writeReg r v).pc = s.pc := by
  cases r <;> first | rfl | exact setSp_pc s v
@[simp] theorem writeReg_halted (s : State) (r : Reg) (v : Word) : (s.writeReg r v).halted = s.halted := by
  cases r <;> first | rfl | exact setSp_halted s v
@[simp] theorem writeReg_irq (s : State) (r : Reg) (v : Word) : (s.writeReg r v).irq = s.irq := by
  cases r <;> first | rfl | exact setSp_irq s v
@[simp] theorem writeReg_iplAttached (s : State) (r : Reg) (v : Word) : (s.writeReg r v).iplAttached = s.iplAttached := by
  cases r <;> first | rfl | exact setSp_iplAttached s v
@[simp] theorem writeReg_mmu (s : State) (r : Reg) (v : Word) : (s.writeReg r v).mmu = s.mmu := by
  cases r <;> first | rfl | exact setSp_mmu s v
@[simp] theorem writeReg_io (s : State) (r : Reg) (v : Word) : (s.writeReg r v).io = s.io := by
  cases r <;> first | rfl | exact setSp_io s v
@[simp] theorem writeReg_mem (s : State) (r : Reg) (v : Word) : (s.writeReg r v).mem = s.mem := by
  cases r <;> first | rfl | exact setSp_mem s v
@[simp] theorem writeReg_draws (s : State) (r : Reg) (v : Word) : (s.writeReg r v).draws = s.draws := by
  cases r <;> first | rfl | exact setSp_draws s v
@[simp] theorem writeReg_outEvents (s : State) (r : Reg) (v : Word) : (s.writeReg r v).outEvents = s.outEvents := by
  cases r <;> first | rfl | exact setSp_outEvents s v

@[simp] theorem setSp_ssp (s : State) (v : Word) : (s.setSp v).ssp = if s.flag.p then v else s.ssp := by
  unfold State.setSp; split <;> rfl
@[simp] theorem setSp_usp (s : State) (v : Word) : (s.setSp v).usp = if s.flag.p then s.usp else v := by
  unfold State.setSp; split <;> rfl
@[simp] theorem setSp_sp (s : State) (v : Word) : (s.setSp v).sp = v := by
  unfold State.sp; rw [setSp_flag]; split <;> simp_all

/-- In privileged mode the stack pointer in use is SSP (10_state.md R23). -/
theorem setSp_privileged (s : State) (v : Word) (h : s.flag.p = true) : s.setSp v = s.setSsp v := by
  simp [State.setSp, h]

/-- In user mode it is USP. -/
theorem setSp_user (s : State) (v : Word) (h : s.flag.p = false) : s.setSp v = s.setUsp v := by
  simp [State.setSp, h]

/-- Only a write of register 15 changes FLAG. -/
theorem writeReg_flag (s : State) (r : Reg) (v : Word) :
    (s.writeReg r v).flag = if r = .flag then s.flag.write v else s.flag := by
  cases r <;> simp [State.writeReg]

theorem writeReg_flag_of_ne (s : State) {r : Reg} (v : Word) (h : r ≠ .flag) : (s.writeReg r v).flag = s.flag := by
  simp [writeReg_flag, h]

/-- In user mode no write of a register reaches SSP (60_exceptions.md R242). -/
theorem writeReg_ssp_user (s : State) (r : Reg) (v : Word) (h : s.flag.p = false) : (s.writeReg r v).ssp = s.ssp := by
  cases r <;> simp [State.writeReg, h]

/-! ### Reads after the updates that leave them alone -/

@[simp] theorem readReg_setPc (s : State) (v : Word) (r : Reg) : (s.setPc v).readReg r = s.readReg r := by
  cases r <;> rfl
@[simp] theorem readReg_setMem (s : State) (m : Memory) (r : Reg) : (s.setMem m).readReg r = s.readReg r := by
  cases r <;> rfl
@[simp] theorem readReg_setDraws (s : State) (n : Nat) (r : Reg) : (s.setDraws n).readReg r = s.readReg r := by
  cases r <;> rfl
@[simp] theorem readReg_tookDraw (s : State) (r : Reg) : s.tookDraw.readReg r = s.readReg r := by
  cases r <;> rfl
@[simp] theorem sp_setMem (s : State) (m : Memory) : (s.setMem m).sp = s.sp := rfl
@[simp] theorem sp_setPc (s : State) (v : Word) : (s.setPc v).sp = s.sp := rfl
@[simp] theorem inRom_setPc (s : State) (v a : Word) : (s.setPc v).inRom a = s.inRom a := rfl
@[simp] theorem inRom_setMem (s : State) (m : Memory) (a : Word) : (s.setMem m).inRom a = s.inRom a := rfl
@[simp] theorem inRom_setFlag (s : State) (f : Flag) (a : Word) : (s.setFlag f).inRom a = s.inRom a := rfl
@[simp] theorem inRom_setSsp (s : State) (v a : Word) : (s.setSsp v).inRom a = s.inRom a := rfl
@[simp] theorem inRom_setSp (s : State) (v a : Word) : (s.setSp v).inRom a = s.inRom a := by
  simp [State.inRom]
@[simp] theorem byteAt_setPc (s : State) (v a : Word) : (s.setPc v).byteAt? a = s.byteAt? a := rfl
@[simp] theorem byteAt_setFlag (s : State) (f : Flag) (a : Word) : (s.setFlag f).byteAt? a = s.byteAt? a := rfl
@[simp] theorem byteAt_setSsp (s : State) (v a : Word) : (s.setSsp v).byteAt? a = s.byteAt? a := rfl
@[simp] theorem byteAt_setSp (s : State) (v a : Word) : (s.setSp v).byteAt? a = s.byteAt? a := by
  simp [State.byteAt?]
@[simp] theorem byteAt_writeReg (s : State) (r : Reg) (v a : Word) : (s.writeReg r v).byteAt? a = s.byteAt? a := by
  simp [State.byteAt?, State.inRom]

/-! ### FLAG -/

@[simp] theorem enterTrap_p (f : Flag) : f.enterTrap.p = true := rfl
@[simp] theorem flag_setVcsz_e (f : Flag) (v c s z : Bool) : (f.setVcsz v c s z).e = f.e := rfl
@[simp] theorem flag_setVcsz_p (f : Flag) (v c s z : Bool) : (f.setVcsz v c s z).p = f.p := rfl
@[simp] theorem flag_setVcsz_i (f : Flag) (v c s z : Bool) : (f.setVcsz v c s z).i = f.i := rfl
@[simp] theorem flag_setVcsz_u (f : Flag) (v c s z : Bool) : (f.setVcsz v c s z).u = f.u := rfl

/-- The word of FLAG holds all its bits (10_state.md R27). -/
@[simp] theorem ofWord_toWord (f : Flag) : Flag.ofWord f.toWord = f := by
  obtain ⟨e, p, i, u, v, c, s, z⟩ := f
  revert e p i u v c s z
  decide

/-- A user-mode write of FLAG keeps E, P and I (10_state.md R29). -/
theorem flagWrite_user (f : Flag) (w : Word) (h : f.p = false) :
    (f.write w).e = f.e ∧ (f.write w).p = f.p ∧ (f.write w).i = f.i := by
  simp [Flag.write, h]

/-- A privileged write of FLAG takes all eight bits. -/
theorem flagWrite_privileged (f : Flag) (w : Word) (h : f.p = true) : f.write w = Flag.ofWord w := by
  simp [Flag.write, h]

end Sys2Proof.Machine
end

