-- ==== Sys2Proof/Laws/Ops.lean ====
section
/-! SUPPORT. One lemma for each shared operation that says everything it can do when it answers a value, a raise or a next
state; proofs cite these and do not unfold the operation. -/

namespace Sys2Proof.Machine

/-! ### Sequencing -/

@[simp] theorem bind_value {α β : Type} (a : α) (k : α → Access β) : (Access.value a).bind k = k a := rfl
@[simp] theorem bind_raise {α β : Type} (e : Exc) (k : α → Access β) : (Access.raise e : Access α).bind k = .raise e := rfl
@[simp] theorem bind_fault {α β : Type} (f : Fault) (k : α → Access β) : (Access.fault f : Access α).bind k = .fault f := rfl
@[simp] theorem bind_refused {α β : Type} (r : Refusal) (k : α → Access β) :
    (Access.refused r : Access α).bind k = .refused r := rfl

/-- A sequence answers a value only through its first part's value. -/
theorem bind_eq_value {α β : Type} {x : Access α} {k : α → Access β} {b : β} (h : x.bind k = .value b) :
    ∃ a, x = .value a ∧ k a = .value b := by
  cases x with
  | value a => exact ⟨a, rfl, h⟩
  | raise e => cases h
  | fault f => cases h
  | refused r => cases h

/-- A sequence raises an exception through its first part or through what follows. -/
theorem bind_eq_raise {α β : Type} {x : Access α} {k : α → Access β} {e : Exc} (h : x.bind k = .raise e) :
    x = .raise e ∨ ∃ a, x = .value a ∧ k a = .raise e := by
  cases x with
  | value a => exact .inr ⟨a, rfl, h⟩
  | raise e' => left; simpa using h
  | fault f => cases h
  | refused r => cases h

@[simp] theorem complete_value (s t : State) (next : Word) : complete s next (.value t) = .next t := rfl
@[simp] theorem complete_raise (s : State) (next : Word) (e : Exc) :
    complete s next (.raise e) = takeException e next s := rfl
@[simp] theorem complete_refused (s : State) (next : Word) (r : Refusal) :
    complete s next (.refused r) = .refused r := rfl

@[simp] theorem misaligned_eq {α : Type} (a : Word) :
    (misaligned a : Access α) = .raise (.memoryProtection .badAddr a) := rfl

/-! ### Bytes and words -/

/-- The two bytes of a word, put together again (20_memory.md R54, R55). -/
@[simp] theorem wordOfBytes_bytes (w : Word) : wordOfBytes (firstByte w) (secondByte w) = w := by
  apply BitVec.eq_of_getLsbD_eq
  intro i hi
  simp only [wordOfBytes, firstByte, secondByte, Setting.byteOrder, BitVec.getLsbD_append, BitVec.getLsbD_extractLsb']
  by_cases h : i < 8
  · simp [h]
  · have h8 : i - 8 < 8 := by omega
    have hs : 8 + (i - 8) = i := by omega
    simp [h, h8, hs]

@[simp] theorem firstByte_wordOfBytes (a b : Byte) : firstByte (wordOfBytes a b) = a := by
  apply BitVec.eq_of_getLsbD_eq
  intro i hi
  simp only [wordOfBytes, firstByte, Setting.byteOrder, BitVec.getLsbD_append, BitVec.getLsbD_extractLsb']
  simp [hi]

@[simp] theorem secondByte_wordOfBytes (a b : Byte) : secondByte (wordOfBytes a b) = b := by
  apply BitVec.eq_of_getLsbD_eq
  intro i hi
  simp only [wordOfBytes, secondByte, Setting.byteOrder, BitVec.getLsbD_append, BitVec.getLsbD_extractLsb']
  simp [hi]

/-- An even address, as an arithmetic fact. -/
theorem even_iff {a : Word} : isOdd a = false ↔ a.toNat % 2 = 0 := by
  simp only [isOdd, decide_eq_false_iff_not]
  omega

/-- The address after an even one. -/
theorem toNat_succ_of_even {a : Word} (h : isOdd a = false) : (a + 1#16).toNat = a.toNat + 1 := by
  have := even_iff.mp h
  have := a.isLt
  rw [BitVec.toNat_add]
  simp
  omega

/-- An address two further, or two back, has the same parity. -/
theorem isOdd_add_two (a : Word) : isOdd (a + 2#16) = isOdd a := by
  have := a.isLt
  simp only [isOdd, BitVec.toNat_add, BitVec.toNat_ofNat, decide_eq_decide]
  omega

theorem isOdd_sub_two (a : Word) : isOdd (a - 2#16) = isOdd a := by
  have := a.isLt
  simp only [isOdd, BitVec.toNat_sub, BitVec.toNat_ofNat, decide_eq_decide]
  omega

/-- The byte after an even address is no other even address's byte. -/
theorem succ_ne_of_even {a : Word} (h : isOdd a = false) : a + 1#16 ≠ a := by
  intro hc
  have := congrArg BitVec.toNat hc
  rw [toNat_succ_of_even h] at this
  omega

/-- Two different even addresses share no byte. -/
theorem even_words_disjoint {a x : Word} (ha : isOdd a = false) (hx : isOdd x = false) (h : x ≠ a) :
    x ≠ a + 1#16 ∧ x + 1#16 ≠ a ∧ x + 1#16 ≠ a + 1#16 := by
  have ha' := even_iff.mp ha
  have hx' := even_iff.mp hx
  have hne : x.toNat ≠ a.toNat := fun hc => h (BitVec.eq_of_toNat_eq hc)
  refine ⟨?_, ?_, ?_⟩ <;> intro hc <;> have hn := congrArg BitVec.toNat hc
  · rw [toNat_succ_of_even ha] at hn; omega
  · rw [toNat_succ_of_even hx] at hn; omega
  · rw [toNat_succ_of_even hx, toNat_succ_of_even ha] at hn; omega

/-! ### Reading memory -/

/-- A byte read answers a value only with the MMU off, of a byte that memory has. -/
theorem readByte_eq_value {s : State} {a : Word} {b : Byte} (h : readByte s a = .value b) :
    s.mmu.enabled = false ∧ s.byteAt? a = some b := by
  unfold readByte at h
  split at h
  · cases h
  · rename_i hm
    split at h
    · rename_i hb
      cases h
      exact ⟨by simpa using hm, hb⟩
    · cases h

/-- When a byte read answers a value. -/
theorem readByte_value {s : State} {a : Word} {b : Byte} (hm : s.mmu.enabled = false) (hb : s.byteAt? a = some b) :
    readByte s a = .value b := by
  simp [readByte, hm, hb]

/-- A word read answers a value only at an even address, of two bytes that memory has, with the MMU off. -/
theorem readWord_eq_value {s : State} {a w : Word} (h : readWord s a = .value w) :
    s.mmu.enabled = false ∧ isOdd a = false ∧
      ∃ b0 b1, s.byteAt? a = some b0 ∧ s.byteAt? (a + 1#16) = some b1 ∧ w = wordOfBytes b0 b1 := by
  unfold readWord at h
  split at h
  · cases h
  · rename_i hm
    split at h
    · cases h
    · rename_i ha
      obtain ⟨b0, h0, h⟩ := bind_eq_value h
      obtain ⟨b1, h1, h⟩ := bind_eq_value h
      simp only [Access.value.injEq] at h
      exact ⟨by simpa using hm, by simpa using ha, b0, b1, (readByte_eq_value h0).2, (readByte_eq_value h1).2, h.symm⟩

/-- When a word read answers a value. -/
theorem readWord_value {s : State} {a : Word} {b0 b1 : Byte} (hm : s.mmu.enabled = false) (ha : isOdd a = false)
    (h0 : s.byteAt? a = some b0) (h1 : s.byteAt? (a + 1#16) = some b1) :
    readWord s a = .value (wordOfBytes b0 b1) := by
  simp [readWord, hm, ha, readByte_value hm h0, readByte_value hm h1]

/-- The one exception a word read raises (60_exceptions.md R222). -/
theorem readWord_odd {s : State} {a : Word} (hm : s.mmu.enabled = false) (ha : isOdd a = true) :
    readWord s a = .raise (.memoryProtection .badAddr a) := by
  simp [readWord, hm, ha]

/-- A read sees memory, the overlay and the MMU's switch, and nothing else of the state. -/
theorem readWord_congr {s t : State} (hmem : t.mem = s.mem) (hipl : t.iplAttached = s.iplAttached)
    (hmmu : t.mmu.enabled = s.mmu.enabled) (a : Word) : readWord t a = readWord s a := by
  simp [readWord, readByte, State.byteAt?, State.inRom, hmem, hipl, hmmu]

/-! ### Writing memory -/

/-- A byte write changes that byte of RAM and nothing else. -/
theorem writeByte_eq_value {s t : State} {a : Word} {b : Byte} (h : writeByte s a b = .value t) :
    s.mmu.enabled = false ∧ s.inRom a = false ∧ t = s.setMem (s.mem.write a.toNat b) := by
  unfold writeByte at h
  split at h
  · cases h
  · rename_i hm
    split at h
    · cases h
    · rename_i hr
      exact ⟨by simpa using hm, by simpa using hr, by simpa using h.symm⟩

/-- When a byte write answers a value. -/
theorem writeByte_value {s : State} {a : Word} (b : Byte) (hm : s.mmu.enabled = false) (hr : s.inRom a = false) :
    writeByte s a b = .value (s.setMem (s.mem.write a.toNat b)) := by
  simp [writeByte, hm, hr]

/-- Main memory after a word is written. -/
def storedWord (m : Memory) (a v : Word) : Memory :=
  (m.write a.toNat (firstByte v)).write (a + 1#16).toNat (secondByte v)

/-- A word write changes the two bytes of RAM and nothing else. -/
theorem writeWord_eq_value {s t : State} {a v : Word} (h : writeWord s a v = .value t) :
    s.mmu.enabled = false ∧ isOdd a = false ∧ s.inRom a = false ∧ t = s.setMem (storedWord s.mem a v) := by
  unfold writeWord at h
  split at h
  · cases h
  · split at h
    · cases h
    · rename_i ha
      obtain ⟨s1, h1, h2⟩ := bind_eq_value h
      obtain ⟨hm, hr, rfl⟩ := writeByte_eq_value h1
      obtain ⟨_, _, rfl⟩ := writeByte_eq_value h2
      exact ⟨hm, by simpa using ha, hr, rfl⟩

/-- The byte after an even address outside the ROM is outside it too. -/
theorem inRom_succ {s : State} {a : Word} (ha : isOdd a = false) (hr : s.inRom a = false) :
    s.inRom (a + 1#16) = false := by
  have hb := even_iff.mp ha
  simp only [State.inRom, Bool.and_eq_false_iff, decide_eq_false_iff_not, toNat_succ_of_even ha] at *
  rcases hr with h | h
  · exact .inl h
  · right
    omega

/-- When a word write answers a value. -/
theorem writeWord_value {s : State} {a : Word} (v : Word) (hm : s.mmu.enabled = false) (ha : isOdd a = false)
    (hr : s.inRom a = false) : writeWord s a v = .value (s.setMem (storedWord s.mem a v)) := by
  have h2 := writeByte_value (s := s.setMem (s.mem.write a.toNat (firstByte v))) (secondByte v) hm
    ((inRom_setMem s _ _).trans (inRom_succ ha hr))
  simp only [writeWord, hm, ha, Bool.false_eq_true, if_false, writeByte_value (firstByte v) hm hr, bind_value, h2]
  rfl

/-- The bytes of memory after a byte of RAM is written outside the ROM. -/
theorem byteAt_write {s : State} {a : Word} (b : Byte) (hr : s.inRom a = false) (x : Word) :
    (s.setMem (s.mem.write a.toNat b)).byteAt? x = if x = a then some b else s.byteAt? x := by
  simp only [State.byteAt?, inRom_setMem, setMem_mem, read_write, BitVec.toNat_inj]
  by_cases hx : x = a
  · simp [hx, hr]
  · simp [hx]

/-- The bytes of memory after a word is written: the high byte at `a`, the low one after it, the others as before
(20_memory.md R57). -/
theorem byteAt_writeWord {s t : State} {a v : Word} (h : writeWord s a v = .value t) (x : Word) :
    t.byteAt? x = if x = a + 1#16 then some (secondByte v) else if x = a then some (firstByte v) else s.byteAt? x := by
  obtain ⟨_, ha, hr, rfl⟩ := writeWord_eq_value h
  have h2 := byteAt_write (s := s.setMem (s.mem.write a.toNat (firstByte v))) (a := a + 1#16) (secondByte v)
    ((inRom_setMem s _ _).trans (inRom_succ ha hr)) x
  have h1 := byteAt_write (firstByte v) hr x
  simp only [setMem_mem] at h2
  rw [h1] at h2
  exact h2

/-- A word read after a word write to the same place. -/
theorem readWord_writeWord_same {s t : State} {a v : Word} (h : writeWord s a v = .value t) :
    readWord t a = .value v := by
  have hb := byteAt_writeWord h
  obtain ⟨hm, ha, hr, rfl⟩ := writeWord_eq_value h
  have h0 := hb a
  have h1 := hb (a + 1#16)
  rw [if_neg (succ_ne_of_even ha).symm, if_pos rfl] at h0
  rw [if_pos rfl] at h1
  rw [readWord_value (by exact hm) ha h0 h1, wordOfBytes_bytes]

/-- A word read after a word write elsewhere. -/
theorem readWord_writeWord_other {s t : State} {a x v w : Word} (h : writeWord s a v = .value t) (hx : x ≠ a)
    (hw : readWord s x = .value w) : readWord t x = .value w := by
  have hb := byteAt_writeWord h
  obtain ⟨hm, ha, hr, rfl⟩ := writeWord_eq_value h
  obtain ⟨_, hxe, b0, b1, h0, h1, rfl⟩ := readWord_eq_value hw
  obtain ⟨d1, d2, d3⟩ := even_words_disjoint ha hxe hx
  refine readWord_value (by exact hm) hxe ?_ ?_
  · rw [hb, if_neg d1, if_neg hx, h0]
  · rw [hb, if_neg d3, if_neg d2, h1]

/-- A word write keeps the canonical form. -/
theorem wf_storedWord {m : Memory} (a v : Word) (h : Memory.wf m = true) : Memory.wf (storedWord m a v) = true :=
  wf_write (wf_write h a.isLt) (a + 1#16).isLt

/-! ### The stack -/

/-- A push stores below the stack pointer in use and moves it there (20_memory.md R58). -/
theorem push_eq_value {s t : State} {v : Word} (h : push s v = .value t) :
    s.mmu.enabled = false ∧ isOdd s.sp = false ∧ s.inRom (s.sp - 2#16) = false ∧
      t = (s.setMem (storedWord s.mem (s.sp - 2#16) v)).setSp (s.sp - 2#16) := by
  obtain ⟨u, hu, ht⟩ := bind_eq_value h
  obtain ⟨hm, ha, hr, rfl⟩ := writeWord_eq_value hu
  rw [isOdd_sub_two] at ha
  simp only [Access.value.injEq] at ht
  exact ⟨hm, ha, hr, ht.symm⟩

/-- When a push answers a value. -/
theorem push_value {s : State} (v : Word) (hm : s.mmu.enabled = false) (ha : isOdd s.sp = false)
    (hr : s.inRom (s.sp - 2#16) = false) :
    push s v = .value ((s.setMem (storedWord s.mem (s.sp - 2#16) v)).setSp (s.sp - 2#16)) := by
  rw [← isOdd_sub_two] at ha
  rw [push, writeWord_value v hm ha hr]
  rfl

/-- A pop reads at the stack pointer in use and moves it up (20_memory.md R59). -/
theorem pop_eq_value {s : State} {r : Word × State} (h : pop s = .value r) :
    readWord s s.sp = .value r.1 ∧ r.2 = s.setSp (s.sp + 2#16) := by
  obtain ⟨v, hv, hr⟩ := bind_eq_value h
  simp only [Access.value.injEq] at hr
  exact ⟨by rw [hv, ← hr], by rw [← hr]⟩

/-- When a pop answers a value. -/
theorem pop_value {s : State} {v : Word} (h : readWord s s.sp = .value v) :
    pop s = .value (v, s.setSp (s.sp + 2#16)) := by
  simp [pop, h]

/-! ### What an access raises -/

/-- A byte access raises nothing: it may be at any address (20_memory.md R61). -/
theorem readByte_ne_raise (s : State) (a : Word) (e : Exc) : readByte s a ≠ .raise e := by
  intro h
  unfold readByte at h
  split at h
  · cases h
  · split at h <;> cases h

theorem writeByte_ne_raise (s : State) (a : Word) (b : Byte) (e : Exc) : writeByte s a b ≠ .raise e := by
  intro h
  unfold writeByte at h
  split at h
  · cases h
  · split at h <;> cases h

/-- A 16-bit access raises one exception, and only at an odd address (20_memory.md R61, 60_exceptions.md R222). -/
theorem readWord_eq_raise {s : State} {a : Word} {e : Exc} (h : readWord s a = .raise e) :
    isOdd a = true ∧ e = .memoryProtection .badAddr a := by
  unfold readWord at h
  split at h
  · cases h
  · split at h
    · rename_i ha
      simp only [misaligned_eq, Access.raise.injEq] at h
      exact ⟨ha, h.symm⟩
    · rcases bind_eq_raise h with h | ⟨b, _, h⟩
      · exact absurd h (readByte_ne_raise s a e)
      · rcases bind_eq_raise h with h | ⟨c, _, h⟩
        · exact absurd h (readByte_ne_raise s _ e)
        · cases h

theorem writeWord_eq_raise {s : State} {a v : Word} {e : Exc} (h : writeWord s a v = .raise e) :
    isOdd a = true ∧ e = .memoryProtection .badAddr a := by
  unfold writeWord at h
  split at h
  · cases h
  · split at h
    · rename_i ha
      simp only [misaligned_eq, Access.raise.injEq] at h
      exact ⟨ha, h.symm⟩
    · rcases bind_eq_raise h with h | ⟨u, _, h⟩
      · exact absurd h (writeByte_ne_raise s a _ e)
      · exact absurd h (writeByte_ne_raise u _ _ e)

/-- A push raises when the stack pointer in use is odd, and names the address below it. -/
theorem push_eq_raise {s : State} {v : Word} {e : Exc} (h : push s v = .raise e) :
    isOdd s.sp = true ∧ e = .memoryProtection .badAddr (s.sp - 2#16) := by
  rcases bind_eq_raise h with h | ⟨u, _, h⟩
  · rw [← isOdd_sub_two]
    exact writeWord_eq_raise h
  · cases h

/-- A pop raises when the stack pointer in use is odd. -/
theorem pop_eq_raise {s : State} {e : Exc} (h : pop s = .raise e) :
    isOdd s.sp = true ∧ e = .memoryProtection .badAddr s.sp := by
  rcases bind_eq_raise h with h | ⟨v, _, h⟩
  · exact readWord_eq_raise h
  · cases h

/-- An operand raises when it is a word at an odd address. -/
theorem readOperand_eq_raise {s : State} {o : Operand} {e : Exc} (h : readOperand s o = .raise e) :
    ∃ a, isOdd a = true ∧ e = .memoryProtection .badAddr a := by
  cases o with
  | imm v => cases h
  | reg rs => cases h
  | imm4 i4 => cases h
  | byteIndirect rx =>
    rcases bind_eq_raise h with h | ⟨b, _, h⟩
    · exact absurd h (readByte_ne_raise s _ e)
    · cases h
  | direct dsp => exact ⟨_, readWord_eq_raise h⟩
  | indexed dsp rx => exact ⟨_, readWord_eq_raise h⟩
  | fpRel d4 => exact ⟨_, readWord_eq_raise h⟩
  | indirect rx => exact ⟨_, readWord_eq_raise h⟩

/-- ST raises when it stores a word at an odd address. -/
theorem storeOperand_eq_raise {s : State} {o : StoreOperand} {v : Word} {e : Exc} (h : storeOperand s o v = .raise e) :
    isOdd (storeEA s o) = true ∧ e = .memoryProtection .badAddr (storeEA s o) := by
  cases o with
  | byteIndirect rx => exact absurd h (writeByte_ne_raise s _ _ e)
  | direct dsp => exact writeWord_eq_raise h
  | indexed dsp rx => exact writeWord_eq_raise h
  | fpRel d4 => exact writeWord_eq_raise h
  | indirect rx => exact writeWord_eq_raise h

/-- RETI raises when the stack pointer in use is odd. -/
theorem trapReturn_eq_raise {s : State} {e : Exc} (h : trapReturn s = .raise e) :
    isOdd s.sp = true ∧ ∃ a, e = .memoryProtection .badAddr a := by
  rcases bind_eq_raise h with h | ⟨f, _, h⟩
  · exact ⟨(readWord_eq_raise h).1, _, (readWord_eq_raise h).2⟩
  · rcases bind_eq_raise h with h | ⟨p, _, h⟩
    · exact ⟨(isOdd_add_two _).symm.trans (readWord_eq_raise h).1, _, (readWord_eq_raise h).2⟩
    · cases h

/-! ### Traps -/

/-- The end of an instruction: it answers a next state by finishing or by taking the exception it raised. -/
theorem complete_eq_next {s t : State} {next : Word} {r : Access State} (h : complete s next r = .next t) :
    r = .value t ∨ ∃ e, r = .raise e ∧ takeException e next s = .next t := by
  cases r with
  | value u => left; simpa [complete] using h
  | raise e => exact .inr ⟨e, rfl, h⟩
  | fault f => cases h
  | refused r => cases h

/-- The instructions that any mode may run (60_exceptions.md R240). -/
@[simp] theorem allowed_of_unprivileged {i : Instr} (s : State) (h : Setting.privileged i = false) :
    allowed i s = true := by
  simp [allowed, h]

/-- An instruction that may run has its effect. -/
theorem guarded_of_allowed {i : Instr} {s : State} (effect : Result) (h : allowed i s = true) :
    guarded i s effect = effect := by
  simp [guarded, h]

/-- An instruction outside `PRIVILEGED_SET` has its effect in every mode. -/
theorem guarded_of_unprivileged {i : Instr} {s : State} (effect : Result) (h : Setting.privileged i = false) :
    guarded i s effect = effect :=
  guarded_of_allowed effect (allowed_of_unprivileged s h)

/-- One that may not run raises PrivilegeViolation instead. -/
theorem guarded_of_not_allowed {i : Instr} {s : State} (effect : Result) (h : allowed i s = false) :
    guarded i s effect = takeException .privilegeViolation s.pc s := by
  simp [guarded, h]

/-- A guarded instruction answers a next state by its effect or by taking PrivilegeViolation. -/
theorem guarded_eq_next {i : Instr} {s t : State} {effect : Result} (h : guarded i s effect = .next t) :
    (allowed i s = true ∧ effect = .next t) ∨
      (allowed i s = false ∧ takeException .privilegeViolation s.pc s = .next t) := by
  unfold guarded at h
  split at h
  · rename_i ha
    exact .inl ⟨ha, h⟩
  · rename_i ha
    exact .inr ⟨by simpa using ha, h⟩

/-- When IN may run, and when OUT may. -/
theorem allowed_inp (rd : Reg) (port : PortOperand) (s : State) :
    allowed (.inp rd port) s = (s.flag.p || s.flag.i) := rfl

theorem allowed_out (rd : Reg) (port : PortOperand) (s : State) :
    allowed (.out rd port) s = (s.flag.p || s.flag.i) := rfl

theorem allowed_halt (s : State) : allowed .halt s = s.flag.p := by
  simp [allowed, Setting.privileged]

/-- A trap entry answers a next state only through its body. -/
theorem trapEntry_eq_next {s t : State} {vec saved : Word} (h : trapEntry vec saved s = .next t) :
    trapBody vec saved s = .value t := by
  unfold trapEntry at h
  split at h
  · rename_i u hu
    simp only [Host.Outcome.next.injEq] at h
    rw [hu, h]
  all_goals cases h

/-- Main memory after a trap entry: the saved PC above the old FLAG (60_exceptions.md R225). -/
def trapFrame (s : State) (saved : Word) : Memory :=
  storedWord (storedWord s.mem (s.ssp - 2#16) saved) (s.ssp - 2#16 - 2#16) s.flag.toWord

/-- The state of a trap entry before the vector is read. -/
def trapPushed (saved : Word) (s : State) : State :=
  ((s.setMem (trapFrame s saved)).setFlag s.flag.enterTrap).setSsp (s.ssp - 2#16 - 2#16)

/-- The two pushes of a trap entry. -/
theorem trap_pushes {s t : State} {saved : Word} :
    ((push (s.setFlag s.flag.enterTrap) saved).bind fun s1 => push s1 s.flag.toWord) = .value t ↔
      s.mmu.enabled = false ∧ isOdd s.ssp = false ∧ s.inRom (s.ssp - 2#16) = false ∧
        s.inRom (s.ssp - 2#16 - 2#16) = false ∧ t = trapPushed saved s := by
  have hsp : (s.setFlag s.flag.enterTrap).sp = s.ssp := rfl
  constructor
  · intro h
    obtain ⟨v1, h1, h2⟩ := bind_eq_value h
    obtain ⟨hm, ha, hr, rfl⟩ := push_eq_value h1
    obtain ⟨_, _, hr2, rfl⟩ := push_eq_value h2
    rw [setSp_sp, inRom_setSp, inRom_setMem] at hr2
    exact ⟨hm, ha, hr, hr2, rfl⟩
  · rintro ⟨hm, ha, hr, hr2, rfl⟩
    rw [push_value saved (by exact hm) (by exact ha) (by exact hr), bind_value]
    rw [push_value s.flag.toWord (by simpa using hm) (by rw [setSp_sp, hsp, isOdd_sub_two]; exact ha)
      (by rw [setSp_sp, inRom_setSp, inRom_setMem]; exact hr2)]
    rfl

/-- Everything a trap entry does (60_exceptions.md R225). -/
theorem trapEntry_next {s t : State} {vec saved : Word} (h : trapEntry vec saved s = .next t) :
    s.mmu.enabled = false ∧ isOdd s.ssp = false ∧ s.inRom (s.ssp - 2#16) = false ∧
      s.inRom (s.ssp - 2#16 - 2#16) = false ∧
      ∃ handler, readWord (trapPushed saved s) vec = .value handler ∧ t = (trapPushed saved s).setPc handler := by
  obtain ⟨v1, h1, h⟩ := bind_eq_value (trapEntry_eq_next h)
  obtain ⟨v2, h2, h⟩ := bind_eq_value h
  obtain ⟨handler, h3, h⟩ := bind_eq_value h
  obtain ⟨hm, ha, hr, hr2, rfl⟩ := trap_pushes.mp (by rw [h1, bind_value, h2])
  simp only [Access.value.injEq] at h
  exact ⟨hm, ha, hr, hr2, handler, h3, h.symm⟩

/-- When a trap entry answers a next state. -/
theorem trapEntry_of {s : State} {vec saved handler : Word} (hm : s.mmu.enabled = false) (ha : isOdd s.ssp = false)
    (hr : s.inRom (s.ssp - 2#16) = false) (hr2 : s.inRom (s.ssp - 2#16 - 2#16) = false)
    (hv : readWord (trapPushed saved s) vec = .value handler) :
    trapEntry vec saved s = .next ((trapPushed saved s).setPc handler) := by
  have hp : _ = Access.value (trapPushed saved s) := trap_pushes.mpr ⟨hm, ha, hr, hr2, rfl⟩
  obtain ⟨v1, h1, h2⟩ := bind_eq_value hp
  simp only [trapEntry, trapBody, h1, bind_value, h2, hv]

/-- What taking an exception does: the trap entry, after the MMU's registers have recorded it. -/
theorem takeException_next {s t : State} {e : Exc} {next : Word} (h : takeException e next s = .next t) :
    trapEntry e.vector (e.savedPc s.pc next) (s.setMmu (e.record s.mmu)) = .next t := h

@[simp] theorem record_enabled (e : Exc) (m : Mmu) : (e.record m).enabled = m.enabled := by
  cases e <;> rfl

end Sys2Proof.Machine
end

