-- ==== Sys2Proof/Laws/PerInstr.lean ====
section
/-! SUPPORT. Facts about every instruction as syntax, one lemma per constructor. -/

namespace Sys2Proof.Laws

/-- An instruction is one or two words, the second exactly when the first asks for one (30_encoding.md R82). -/
def EncodesOneOrTwoWords.Statement (i : Instr) : Prop :=
  ∃ w, encode i = [w] ∨ ∃ w2, encode i = [w, w2]

theorem operand_fields_words (op5 : BitVec 5) (rd : BitVec 4) (o : Operand) :
    ∃ w, emit op5 rd o.fields = [w] ∨ ∃ w2, emit op5 rd o.fields = [w, w2] := by
  cases o <;> simp [Operand.fields, emit]

theorem store_fields_words (op5 : BitVec 5) (rd : BitVec 4) (o : StoreOperand) :
    ∃ w, emit op5 rd o.fields = [w] ∨ ∃ w2, emit op5 rd o.fields = [w, w2] := by
  cases o <;> simp [StoreOperand.fields, emit]

theorem target_fields_words (op5 : BitVec 5) (rd : BitVec 4) (o : Target) :
    ∃ w, emit op5 rd o.fields = [w] ∨ ∃ w2, emit op5 rd o.fields = [w, w2] := by
  cases o <;> simp [Target.fields, emit]

theorem port_fields_words (op5 : BitVec 5) (rd : BitVec 4) (o : PortOperand) :
    ∃ w, emit op5 rd o.fields = [w] ∨ ∃ w2, emit op5 rd o.fields = [w, w2] := by
  cases o <;> simp [PortOperand.fields, emit]

theorem EncodesOneOrTwoWords.no : EncodesOneOrTwoWords.Statement .no :=
  ⟨_, .inl rfl⟩

theorem EncodesOneOrTwoWords.ld (rd : Reg) (src : Operand) : EncodesOneOrTwoWords.Statement (.ld rd src) :=
  operand_fields_words _ _ _

theorem EncodesOneOrTwoWords.st (rd : Reg) (dst : StoreOperand) : EncodesOneOrTwoWords.Statement (.st rd dst) :=
  store_fields_words _ _ _

theorem EncodesOneOrTwoWords.add (rd : Reg) (src : Operand) : EncodesOneOrTwoWords.Statement (.add rd src) :=
  operand_fields_words _ _ _

theorem EncodesOneOrTwoWords.sub (rd : Reg) (src : Operand) : EncodesOneOrTwoWords.Statement (.sub rd src) :=
  operand_fields_words _ _ _

theorem EncodesOneOrTwoWords.cmp (rd : Reg) (src : Operand) : EncodesOneOrTwoWords.Statement (.cmp rd src) :=
  operand_fields_words _ _ _

theorem EncodesOneOrTwoWords.and (rd : Reg) (src : Operand) : EncodesOneOrTwoWords.Statement (.and rd src) :=
  operand_fields_words _ _ _

theorem EncodesOneOrTwoWords.or (rd : Reg) (src : Operand) : EncodesOneOrTwoWords.Statement (.or rd src) :=
  operand_fields_words _ _ _

theorem EncodesOneOrTwoWords.xor (rd : Reg) (src : Operand) : EncodesOneOrTwoWords.Statement (.xor rd src) :=
  operand_fields_words _ _ _

theorem EncodesOneOrTwoWords.adds (rd : Reg) (src : Operand) : EncodesOneOrTwoWords.Statement (.adds rd src) :=
  operand_fields_words _ _ _

theorem EncodesOneOrTwoWords.mul (rd : Reg) (src : Operand) : EncodesOneOrTwoWords.Statement (.mul rd src) :=
  operand_fields_words _ _ _

theorem EncodesOneOrTwoWords.div (rd : Reg) (src : Operand) : EncodesOneOrTwoWords.Statement (.div rd src) :=
  operand_fields_words _ _ _

theorem EncodesOneOrTwoWords.mod (rd : Reg) (src : Operand) : EncodesOneOrTwoWords.Statement (.mod rd src) :=
  operand_fields_words _ _ _

theorem EncodesOneOrTwoWords.shla (rd : Reg) (src : Operand) : EncodesOneOrTwoWords.Statement (.shla rd src) :=
  operand_fields_words _ _ _

theorem EncodesOneOrTwoWords.shll (rd : Reg) (src : Operand) : EncodesOneOrTwoWords.Statement (.shll rd src) :=
  operand_fields_words _ _ _

theorem EncodesOneOrTwoWords.shra (rd : Reg) (src : Operand) : EncodesOneOrTwoWords.Statement (.shra rd src) :=
  operand_fields_words _ _ _

theorem EncodesOneOrTwoWords.shrl (rd : Reg) (src : Operand) : EncodesOneOrTwoWords.Statement (.shrl rd src) :=
  operand_fields_words _ _ _

theorem EncodesOneOrTwoWords.jz (tgt : Target) : EncodesOneOrTwoWords.Statement (.jz tgt) :=
  target_fields_words _ _ _

theorem EncodesOneOrTwoWords.jc (tgt : Target) : EncodesOneOrTwoWords.Statement (.jc tgt) :=
  target_fields_words _ _ _

theorem EncodesOneOrTwoWords.jm (tgt : Target) : EncodesOneOrTwoWords.Statement (.jm tgt) :=
  target_fields_words _ _ _

theorem EncodesOneOrTwoWords.jo (tgt : Target) : EncodesOneOrTwoWords.Statement (.jo tgt) :=
  target_fields_words _ _ _

theorem EncodesOneOrTwoWords.jgt (tgt : Target) : EncodesOneOrTwoWords.Statement (.jgt tgt) :=
  target_fields_words _ _ _

theorem EncodesOneOrTwoWords.jge (tgt : Target) : EncodesOneOrTwoWords.Statement (.jge tgt) :=
  target_fields_words _ _ _

theorem EncodesOneOrTwoWords.jle (tgt : Target) : EncodesOneOrTwoWords.Statement (.jle tgt) :=
  target_fields_words _ _ _

theorem EncodesOneOrTwoWords.jlt (tgt : Target) : EncodesOneOrTwoWords.Statement (.jlt tgt) :=
  target_fields_words _ _ _

theorem EncodesOneOrTwoWords.jnz (tgt : Target) : EncodesOneOrTwoWords.Statement (.jnz tgt) :=
  target_fields_words _ _ _

theorem EncodesOneOrTwoWords.jnc (tgt : Target) : EncodesOneOrTwoWords.Statement (.jnc tgt) :=
  target_fields_words _ _ _

theorem EncodesOneOrTwoWords.jnm (tgt : Target) : EncodesOneOrTwoWords.Statement (.jnm tgt) :=
  target_fields_words _ _ _

theorem EncodesOneOrTwoWords.jno (tgt : Target) : EncodesOneOrTwoWords.Statement (.jno tgt) :=
  target_fields_words _ _ _

theorem EncodesOneOrTwoWords.jhi (tgt : Target) : EncodesOneOrTwoWords.Statement (.jhi tgt) :=
  target_fields_words _ _ _

theorem EncodesOneOrTwoWords.jls (tgt : Target) : EncodesOneOrTwoWords.Statement (.jls tgt) :=
  target_fields_words _ _ _

theorem EncodesOneOrTwoWords.jmp (tgt : Target) : EncodesOneOrTwoWords.Statement (.jmp tgt) :=
  target_fields_words _ _ _

theorem EncodesOneOrTwoWords.call (tgt : Target) : EncodesOneOrTwoWords.Statement (.call tgt) :=
  target_fields_words _ _ _

theorem EncodesOneOrTwoWords.inp (rd : Reg) (port : PortOperand) : EncodesOneOrTwoWords.Statement (.inp rd port) :=
  port_fields_words _ _ _

theorem EncodesOneOrTwoWords.out (rd : Reg) (port : PortOperand) : EncodesOneOrTwoWords.Statement (.out rd port) :=
  port_fields_words _ _ _

theorem EncodesOneOrTwoWords.push (rd : Reg) : EncodesOneOrTwoWords.Statement (.push rd) :=
  ⟨_, .inl rfl⟩

theorem EncodesOneOrTwoWords.pop (rd : Reg) : EncodesOneOrTwoWords.Statement (.pop rd) :=
  ⟨_, .inl rfl⟩

theorem EncodesOneOrTwoWords.ret : EncodesOneOrTwoWords.Statement .ret :=
  ⟨_, .inl rfl⟩

theorem EncodesOneOrTwoWords.reti : EncodesOneOrTwoWords.Statement .reti :=
  ⟨_, .inl rfl⟩

theorem EncodesOneOrTwoWords.svc : EncodesOneOrTwoWords.Statement .svc :=
  ⟨_, .inl rfl⟩

theorem EncodesOneOrTwoWords.halt : EncodesOneOrTwoWords.Statement .halt :=
  ⟨_, .inl rfl⟩

end Sys2Proof.Laws
end

