-- ==== Sys2Proof/Laws/Steps.lean ====
section
/-! SUPPORT. What the shared operations of instructions and the step can do, once each: templates, ports, the trap
frame, the fetch, the step; and the lengths of instructions. -/

namespace Sys2Proof.Machine

/-! ### Lengths -/

/-- The length that LD, arithmetic and shifts add to the PC is the encoded one (30_encoding.md R82). -/
theorem size_operand (o : Operand) (op5 : BitVec 5) (rd : BitVec 4) :
    BitVec.ofNat 16 (2 * (emit op5 rd o.fields).length) = operandSize o := by
  cases o <;> rfl

theorem size_store (o : StoreOperand) (op5 : BitVec 5) (rd : BitVec 4) :
    BitVec.ofNat 16 (2 * (emit op5 rd o.fields).length) = storeSize o := by
  cases o <;> rfl

theorem size_port (o : PortOperand) (op5 : BitVec 5) (rd : BitVec 4) :
    BitVec.ofNat 16 (2 * (emit op5 rd o.fields).length) = portSize o := by
  cases o <;> rfl

/-! ### The templates of the arithmetic and of the jumps -/

/-- When a flag-setting instruction answers its own next state (41_arithmetic_logic.md R130). -/
theorem flagSetting_value {f : Word → Word → Access AluOut} {rd : Reg} {src : Operand} {s : State} {b : Word}
    {o : AluOut} (hr : rd ≠ .flag) (h : readOperand s src = .value b) (hf : f (s.readReg rd) b = .value o) :
    flagSetting f rd src s = .next (((s.writeReg rd o.result).setFlagsOf o).setPc (s.pc + operandSize src)) := by
  unfold flagSetting
  split
  · exact absurd rfl hr
  · simp [binaryOperation, h, hf]

/-- The shift count is the operand modulo 16 (42_shift.md R150), so that no shift is refused for it. -/
@[simp] theorem shiftCount_eq (b : Word) : shiftCount b = .value (b.toNat % 16) := by
  have h : (b &&& 0x000F#16).toNat = b.toNat % 16 := by
    rw [BitVec.toNat_and]
    exact Nat.and_two_pow_sub_one_eq_mod b.toNat 4
  have hn : b.toNat % 16 ≤ 15 := by omega
  simp only [shiftCount, Setting.shiftCountMask, boundedCount, h, hn, if_true]

/-- What a shift computes. -/
theorem aluShift_eq (shift : Word → Nat → Word) (lost : Word → Bool) (a b : Word) :
    aluShift shift lost a b = .value (shiftOut (shift a (b.toNat % 16)) (lost a) (b.toNat % 16)) := by
  simp [aluShift]

/-- A flag-setting instruction answers a next state by finishing or by taking an exception. -/
theorem flagSetting_eq_next {f : Word → Word → Access AluOut} {rd : Reg} {src : Operand} {s t : State}
    (h : flagSetting f rd src s = .next t) :
    rd ≠ .flag ∧ ((∃ b o, readOperand s src = .value b ∧ f (s.readReg rd) b = .value o ∧
        t = ((s.writeReg rd o.result).setFlagsOf o).setPc (s.pc + operandSize src)) ∨
      ∃ e, takeException e (s.pc + operandSize src) s = .next t) := by
  unfold flagSetting at h
  split at h
  · cases h
  · rename_i hr
    refine ⟨hr, ?_⟩
    rcases complete_eq_next h with hv | ⟨e, _, he⟩
    · obtain ⟨b, hb, hv⟩ := bind_eq_value hv
      obtain ⟨o, ho, hv⟩ := bind_eq_value hv
      simp only [Access.value.injEq] at hv
      exact .inl ⟨b, o, hb, ho, hv.symm⟩
    · exact .inr ⟨e, he⟩

/-! ### Stores and ports -/

/-- ST's store changes RAM and nothing else. -/
theorem storeOperand_eq_value {s t : State} {o : StoreOperand} {v : Word} (h : storeOperand s o v = .value t) :
    s.mmu.enabled = false ∧ s.inRom (storeEA s o) = false ∧
      (t = s.setMem (storedWord s.mem (storeEA s o) v) ∨
        t = s.setMem (s.mem.write (storeEA s o).toNat (v.setWidth 8))) := by
  have word : ∀ a, writeWord s a v = .value t → s.mmu.enabled = false ∧ s.inRom a = false ∧
      (t = s.setMem (storedWord s.mem a v) ∨ t = s.setMem (s.mem.write a.toNat (v.setWidth 8))) := by
    intro a h
    obtain ⟨hm, _, hr, ht⟩ := writeWord_eq_value h
    exact ⟨hm, hr, .inl ht⟩
  cases o with
  | byteIndirect rx =>
    obtain ⟨hm, hr, ht⟩ := writeByte_eq_value h
    exact ⟨hm, hr, .inr ht⟩
  | direct dsp => exact word _ h
  | indexed dsp rx => exact word _ h
  | fpRel d4 => exact word _ h
  | indirect rx => exact word _ h

/-- All that reading a port can change: the count of free values and the I/O registers. -/
theorem readPort_state (s : State) (p : InPort) :
    ∃ n x, (readPort s p).2 = { s with draws := n, io := x } := by
  cases p with
  | rn4020Cmd =>
    simp only [readPort, readRn4020Cmd]
    split
    · exact ⟨_, _, rfl⟩
    · exact ⟨_, _, rfl⟩
  | _ => exact ⟨_, _, rfl⟩

/-- A read of a port leaves the interrupt enables as they are. -/
@[simp] theorem readPort_intEnable (s : State) (p : InPort) (k : IntSource) :
    (readPort s p).2.io.intEnable k = s.io.intEnable k := by
  cases p with
  | timerCurrent t => cases t <;> cases k <;> rfl
  | timerFlag t => cases t <;> cases k <;> rfl
  | rn4020Cmd =>
    simp only [readPort, readRn4020Cmd]
    split <;> rfl
  | _ => rfl

/-- Neither IN nor OUT raises an exception of its own. -/
theorem ioRead_ne_raise (s : State) (a : Word) (e : Exc) : ioRead s a ≠ .raise e := by
  intro h
  unfold ioRead at h
  split at h <;> cases h

theorem ioWrite_ne_raise (s : State) (a v : Word) (e : Exc) : ioWrite s a v ≠ .raise e := by
  intro h
  unfold ioWrite at h
  split at h
  · cases h
  · split at h <;> cases h

/-- An IN reads a listed port. -/
theorem ioRead_eq_value {s : State} {a : Word} {r : Word × State} (h : ioRead s a = .value r) :
    ∃ p, inPort? a = some p ∧ r = readPort s p := by
  unfold ioRead at h
  split at h
  · rename_i p hp
    exact ⟨p, hp, by simpa using h.symm⟩
  · cases h

/-- An OUT writes a listed port, where the write is admitted. -/
theorem ioWrite_eq_value {s t : State} {a v : Word} (h : ioWrite s a v = .value t) :
    ∃ p, outPort? a = some p ∧ outRefusal s p v = none ∧
      t = { s with
        io := writeIo s.io p v
        mmu := writeMmu s.mmu p v
        iplAttached := writeIpl s.iplAttached p v
        outEvents := s.outEvents ++ [(a, v)] } := by
  unfold ioWrite at h
  split at h
  · cases h
  · rename_i p hp
    split at h
    · cases h
    · rename_i hr
      simp only [Access.value.injEq] at h
      exact ⟨p, hp, hr, h.symm⟩

/-! ### The trap frame -/

/-- The state of a trap entry is that of two word writes below SSP. -/
theorem trapPushed_writes {s : State} (saved : Word) (hm : s.mmu.enabled = false) (he : isOdd s.ssp = false)
    (h1 : s.inRom (s.ssp - 2#16) = false) (h2 : s.inRom (s.ssp - 2#16 - 2#16) = false) :
    ∃ u w, writeWord s (s.ssp - 2#16) saved = .value u ∧
      writeWord u (s.ssp - 2#16 - 2#16) s.flag.toWord = .value w ∧
      (∀ a, readWord (trapPushed saved s) a = readWord w a) ∧ (∀ a, (trapPushed saved s).byteAt? a = w.byteAt? a) := by
  have he2 : isOdd (s.ssp - 2#16) = false := by rw [isOdd_sub_two]; exact he
  have he4 : isOdd (s.ssp - 2#16 - 2#16) = false := by rw [isOdd_sub_two]; exact he2
  have w1 := writeWord_value (s := s) (a := s.ssp - 2#16) saved hm he2 h1
  have w2 := writeWord_value (s := s.setMem (storedWord s.mem (s.ssp - 2#16) saved)) (a := s.ssp - 2#16 - 2#16)
    s.flag.toWord hm he4 h2
  exact ⟨_, _, w1, w2, fun a => readWord_congr rfl rfl rfl a, fun _ => rfl⟩

/-- What RETI leaves (45_system.md R200). -/
theorem trapReturn_eq_value {s t : State} (h : trapReturn s = .value t) :
    ∃ f p, readWord s s.sp = .value f ∧ readWord s (s.sp + 2#16) = .value p ∧
      t = ((s.setSp (s.sp + 4#16)).setFlag (s.flag.write f)).setPc p := by
  obtain ⟨f, hf, h⟩ := bind_eq_value h
  obtain ⟨p, hp, h⟩ := bind_eq_value h
  simp only [Access.value.injEq] at h
  exact ⟨f, p, hf, hp, h.symm⟩

/-! ### The fetch and the step -/

/-- A fetch reads one word, and a second one if the first asks for it. -/
theorem fetch_eq_value {s : State} {i : Instr} (h : fetch s = .value i) :
    ∃ w1, readWord s s.pc = .value w1 ∧
      (decodeFirst w1 = .ok (.one i) ∨
        ∃ f w2, decodeFirst w1 = .ok (.two f) ∧ readWord s (s.pc + 2#16) = .value w2 ∧ i = f w2) := by
  obtain ⟨w1, h1, h⟩ := bind_eq_value h
  refine ⟨w1, h1, ?_⟩
  split at h
  · rename_i e _
    cases e <;> cases h
  · rename_i j hj
    simp only [Access.value.injEq] at h
    exact .inl (by rw [hj, h])
  · rename_i f hf
    obtain ⟨w2, h2, h⟩ := bind_eq_value h
    simp only [Access.value.injEq] at h
    exact .inr ⟨f, w2, hf, h2, h.symm⟩

/-- A fetch raises when the PC is odd (20_memory.md R61). -/
theorem fetch_eq_raise {s : State} {e : Exc} (h : fetch s = .raise e) :
    isOdd s.pc = true ∧ ∃ a, e = .memoryProtection .badAddr a := by
  rcases bind_eq_raise h with h | ⟨w1, _, h⟩
  · exact ⟨(readWord_eq_raise h).1, _, (readWord_eq_raise h).2⟩
  · split at h
    · rename_i x _
      cases x <;> cases h
    · cases h
    · rcases bind_eq_raise h with h | ⟨w2, _, h⟩
      · exact ⟨(isOdd_add_two _).symm.trans (readWord_eq_raise h).1, _, (readWord_eq_raise h).2⟩
      · cases h

/-- Everything a step can do when it answers a next state. -/
theorem step_eq_next {s t : State} (h : step s = .next t) :
    s.halted = false ∧
      ((∃ k, s.recognised = some k ∧ takeInterrupt k s = .next t) ∨
        (s.recognised = none ∧ ∃ i, fetch s = .value i ∧ exec i s = .next t) ∨
        (s.recognised = none ∧ ∃ e, fetch s = .raise e ∧ takeException e (s.pc + 2#16) s = .next t)) := by
  unfold step at h
  split at h
  · cases h
  · rename_i hh
    refine ⟨by simpa using hh, ?_⟩
    split at h
    · rename_i k hk
      exact .inl ⟨k, hk, h⟩
    · rename_i hn
      split at h
      · rename_i i hi
        exact .inr (.inl ⟨hn, i, hi, h⟩)
      · rename_i e he
        exact .inr (.inr ⟨hn, e, he, h⟩)
      · cases h
      · cases h

end Sys2Proof.Machine
end

