-- ==== Sys2Proof/Tests/Slice0.lean ====
section
/-! SUPPORT. The author's tests: ill-formed terms, words written out from the spec's encodings, one step on small states
(expected results from 95_test_vectors.md, `misaligned` lines apart: log 8), and for each statement with hypotheses a
state that meets them. -/

namespace Sys2Proof.Tests

open Sys2Proof Sys2Proof.Machine

/-! ### Small states -/

/-- Words from an address on, high byte first. -/
def put (m : Memory) (a : Nat) (ws : List Word) : Memory :=
  match ws with
  | [] => m
  | w :: rest => put (Memory.write (Memory.write m a (w.extractLsb' 8 8)) (a + 1) (w.extractLsb' 0 8)) (a + 2) rest

/-- Words at several places. -/
def putAll (m : Memory) (cells : List (Nat × Word)) : Memory :=
  match cells with
  | [] => m
  | (a, w) :: rest => putAll (put m a [w]) rest

/-- Registers written in privileged mode. -/
def setRegs (s : State) (regs : List (Reg × Word)) : State :=
  match regs with
  | [] => s
  | (r, v) :: rest => setRegs (s.writeReg r v) rest

/-- The state "after the IPL" (70_reset_and_hazards.md R271) with the PC at 0100h. -/
def afterIpl : State := { State.reset with iplAttached := false, pc := 0x0100#16 }

/-- The start state of a vector: the code at 0100h, FLAG, registers and words of memory. -/
def start (code : List Word) (flag : Word) (regs : List (Reg × Word)) (cells : List (Nat × Word)) : State :=
  { setRegs afterIpl regs with flag := Flag.ofWord flag, mem := putAll (put [] 0x0100 code) cells }

/-- The outcome is a next state with this property. -/
def gives (r : Result) (p : State → Bool) : Bool :=
  match r with
  | .next t => p t
  | _ => false

/-- The outcome is this refusal. -/
def refuses (r : Result) (x : Refusal) : Bool :=
  match r with
  | .refused y => decide (y = x)
  | _ => false

/-- The outcome is this fault. -/
def faults (r : Result) (x : Fault) : Bool :=
  match r with
  | .fault y => decide (y = x)
  | _ => false

/-- The word at an address, where it can be read. -/
def wordAt (s : State) (a : Word) : Option Word :=
  match readWord s a with
  | .value w => some w
  | _ => none

/-- S and Z. -/
def sz (s : State) : Bool × Bool := (s.flag.s, s.flag.z)

/-- V, C, S and Z as a digit. -/
def vcsz (s : State) : BitVec 4 := s.flag.toWord.extractLsb' 0 4

/-! ### Ill-formed terms -/

/-- No instruction that writes a result and the flags is well-formed with FLAG as its destination (41 R133, 42 R151). -/
theorem test_wf_refuses_flag_destination :
    [Instr.add .flag (.imm 1#16), .sub .flag (.reg .fp), .and .flag (.imm4 1#4), .or .flag (.direct 0#16),
     .xor .flag (.fpRel 0#4), .adds .flag (.indirect .sp), .mul .flag (.imm 1#16), .div .flag (.imm 1#16),
     .mod .flag (.imm 1#16), .shla .flag (.imm4 1#4), .shll .flag (.imm4 1#4), .shra .flag (.imm4 1#4),
     .shrl .flag (.byteIndirect .usp)].map Instr.wf = List.replicate 13 false := by decide

theorem test_wf_refuses_push_sp : (Instr.push .sp).wf = false := by decide

theorem test_wf_refuses_pop_sp : (Instr.pop .sp).wf = false := by decide

/-- CMP, LD and POP may name FLAG, and PUSH may name USP. -/
theorem test_wf_admits :
    [Instr.cmp .flag (.imm 1#16), .ld .flag (.imm 1#16), .pop .flag, .push .usp].map Instr.wf =
      List.replicate 4 true := by decide

/-! ### Words written out from 30_encoding.md R97 to R99 and 95_test_vectors.md part 1 and 2 -/

/-- The instruction that words decode to, if nothing is left over. -/
def decoded (ws : List Word) : Option Instr :=
  match decodeWords ws with
  | .ok (i, []) => some i
  | _ => none

theorem test_decode_move :
    [decoded [0x0000#16],
     decoded [0x0810#16, 0x1000#16],
     decoded [0x0D18#16],
     decoded [0x0F12#16],
     decoded [0x1321#16]] =
    [some .no,
     some (.ld (.g 1) (.direct 0x1000#16)),
     some (.ld (.g 1) (.imm4 0x8#4)),
     some (.ld (.g 1) (.byteIndirect (.g 2))),
     some (.st (.g 2) (.fpRel 0x1#4))] := by decide

theorem test_decode_arithmetic :
    [decoded [0x1A10#16, 0x8000#16],
     decoded [0x2515#16],
     decoded [0x2AF0#16, 0x0041#16],
     decoded [0x351E#16],
     decoded [0x3D10#16],
     decoded [0x4210#16, 0x1234#16],
     decoded [0x4C21#16],
     decoded [0x5303#16],
     decoded [0x5C12#16],
     decoded [0x6517#16]] =
    [some (.add (.g 1) (.imm 0x8000#16)),
     some (.sub (.g 1) (.imm4 0x5#4)),
     some (.cmp .flag (.imm 0x0041#16)),
     some (.and (.g 1) (.imm4 0xE#4)),
     some (.or (.g 1) (.imm4 0x0#4)),
     some (.xor (.g 1) (.imm 0x1234#16)),
     some (.adds (.g 2) (.reg (.g 1))),
     some (.mul (.g 0) (.fpRel 0x3#4)),
     some (.div (.g 1) (.reg (.g 2))),
     some (.mod (.g 1) (.imm4 0x7#4))] := by decide

theorem test_decode_shift :
    [decoded [0x8511#16],
     decoded [0x8A10#16, 0x000F#16],
     decoded [0x9512#16],
     decoded [0x9C12#16]] =
    [some (.shla (.g 1) (.imm4 0x1#4)),
     some (.shll (.g 1) (.imm 0x000F#16)),
     some (.shra (.g 1) (.imm4 0x2#4)),
     some (.shrl (.g 1) (.reg (.g 2)))] := by decide

theorem test_decode_jump :
    [decoded [0xA000#16, 0x0200#16],
     decoded [0xA010#16, 0x0200#16],
     decoded [0xA020#16, 0x0200#16],
     decoded [0xA030#16, 0x0200#16],
     decoded [0xA040#16, 0x0200#16],
     decoded [0xA050#16, 0x0200#16],
     decoded [0xA060#16, 0x0200#16],
     decoded [0xA070#16, 0x0200#16],
     decoded [0xA080#16, 0x0200#16],
     decoded [0xA090#16, 0x0200#16],
     decoded [0xA0A0#16, 0x0200#16],
     decoded [0xA0B0#16, 0x0200#16],
     decoded [0xA0C0#16, 0x0200#16],
     decoded [0xA0E0#16, 0x0200#16],
     decoded [0xA0F0#16, 0x0200#16],
     decoded [0xA1F1#16, 0x0010#16],
     decoded [0xA901#16, 0x0004#16],
     decoded [0xD000#16]] =
    [some (.jz (.direct 0x0200#16)),
     some (.jc (.direct 0x0200#16)),
     some (.jm (.direct 0x0200#16)),
     some (.jo (.direct 0x0200#16)),
     some (.jgt (.direct 0x0200#16)),
     some (.jge (.direct 0x0200#16)),
     some (.jle (.direct 0x0200#16)),
     some (.jlt (.direct 0x0200#16)),
     some (.jnz (.direct 0x0200#16)),
     some (.jnc (.direct 0x0200#16)),
     some (.jnm (.direct 0x0200#16)),
     some (.jno (.direct 0x0200#16)),
     some (.jhi (.direct 0x0200#16)),
     some (.jls (.direct 0x0200#16)),
     some (.jmp (.direct 0x0200#16)),
     some (.jmp (.indexed 0x0010#16 (.g 1))),
     some (.call (.indexed 0x0004#16 (.g 1))),
     some .ret] := by decide

theorem test_decode_io_stack_system :
    [decoded [0xB000#16, 0x000A#16],
     decoded [0xBE01#16],
     decoded [0xC0E0#16],
     decoded [0xC4F0#16],
     decoded [0xD4F0#16],
     decoded [0xF000#16],
     decoded [0xFF00#16]] =
    [some (.inp (.g 0) (.direct 0x000A#16)),
     some (.out (.g 0) (.indirect (.g 1))),
     some (.push .usp),
     some (.pop .flag),
     some .reti,
     some .svc,
     some .halt] := by decide

/-- The host's numbering: the second word in bits 31..16. -/
theorem test_decode_table_word : decodeTableWord 32 0x0002_0912 = some (.ld (.g 1) (.indexed 0x0002#16 (.g 2))) := by decide

/-- OP C1h is an empty cell, and D400h is not RETI as printed. -/
theorem test_decode_rejects :
    [decodeTableWord 16 0xC100, decodeTableWord 16 0xD400, decodeTableWord 32 0x0200_A0D0] = [none, none, none] := by decide

/-! ### One step -/

/-- 2.1 line 1 -/
theorem test_no :
    gives (step (start [0x0000#16] 0x0040#16 [] []))
      (fun t => t.pc == 0x0102#16 && t.readReg .flag == 0x0040#16) = true := by decide

/-- 2.1 line 6 -/
theorem test_ld_indexed_wraps :
    gives (step (start [0x0912#16, 0xFFFE#16] 0x0040#16 [(.g 2, 0x1002#16)] [(0x1000, 0xBEEF#16)]))
      (fun t => t.readReg (.g 1) == 0xBEEF#16 && t.pc == 0x0104#16) = true := by decide

/-- 2.1 line 21 -/
theorem test_ld_flag_in_user_mode :
    gives (step (start [0x0AF0#16, 0x00FF#16] 0x0000#16 [] []))
      (fun t => t.readReg .flag == 0x001F#16) = true := by decide

/-- 2.1 line 29 -/
theorem test_st_fp_relative :
    gives (step (start [0x1321#16] 0x0040#16 [(.g 2, 0xBEEF#16), (.fp, 0x1FFE#16)] []))
      (fun t => t.byteAt? 0x2000#16 == some 0xBE#8 && t.byteAt? 0x2001#16 == some 0xEF#8) = true := by decide

/-- 2.1 line 31 -/
theorem test_st_byte :
    gives (step (start [0x1723#16] 0x0040#16 [(.g 2, 0xBEEF#16), (.g 3, 0x2001#16)] [(0x2000, 0x1234#16)]))
      (fun t => wordAt t 0x2000#16 == some 0x12EF#16) = true := by decide

/-- 2.2 line 2 -/
theorem test_add_wraps :
    gives (step (start [0x1D11#16] 0x0040#16 [(.g 1, 0xFFFF#16)] []))
      (fun t => t.readReg (.g 1) == 0x0000#16 && t.readReg .flag == 0x0045#16) = true := by decide

/-- 2.2 line 3 -/
theorem test_add_overflows :
    gives (step (start [0x1D11#16] 0x0040#16 [(.g 1, 0x7FFF#16)] []))
      (fun t => t.readReg (.g 1) == 0x8000#16 && vcsz t == 0b1010#4) = true := by decide

/-- 2.2 line 10 -/
theorem test_sub_borrows :
    gives (step (start [0x2515#16] 0x0040#16 [(.g 1, 0x0003#16)] []))
      (fun t => t.readReg (.g 1) == 0xFFFE#16 && vcsz t == 0b0110#4) = true := by decide

/-- 2.2 line 16 -/
theorem test_sub_overflows :
    gives (step (start [0x2210#16, 0x8000#16] 0x0040#16 [(.g 1, 0x0000#16)] []))
      (fun t => t.readReg (.g 1) == 0x8000#16 && vcsz t == 0b1110#4) = true := by decide

/-- 2.2 line 23 -/
theorem test_cmp :
    gives (step (start [0x2A10#16, 0x8000#16] 0x0040#16 [(.g 1, 0x7FFF#16)] []))
      (fun t => t.readReg (.g 1) == 0x7FFF#16 && vcsz t == 0b1110#4) = true := by decide

/-- 2.3 line 2 -/
theorem test_and :
    gives (step (start [0x351E#16] 0x0040#16 [(.g 1, 0xFFFF#16)] []))
      (fun t => t.readReg (.g 1) == 0xFFFE#16 && sz t == (true, false)) = true := by decide

/-- 2.3 line 4 -/
theorem test_or :
    gives (step (start [0x3A10#16, 0x000F#16] 0x0040#16 [(.g 1, 0xF000#16)] []))
      (fun t => t.readReg (.g 1) == 0xF00F#16 && sz t == (true, false)) = true := by decide

/-- 2.3 line 6 -/
theorem test_xor :
    gives (step (start [0x451F#16] 0x0040#16 [(.g 1, 0xAAAA#16)] []))
      (fun t => t.readReg (.g 1) == 0x5555#16 && sz t == (false, false)) = true := by decide

/-- 2.3 line 12 -/
theorem test_adds_same_register :
    gives (step (start [0x4C11#16] 0x0040#16 [(.g 1, 0x0005#16)] []))
      (fun t => t.readReg (.g 1) == 0x000F#16 && sz t == (false, false)) = true := by decide

/-- 2.3 line 14 -/
theorem test_mul_low_bits :
    gives (step (start [0x5210#16, 0x0100#16] 0x0040#16 [(.g 1, 0x0100#16)] []))
      (fun t => t.readReg (.g 1) == 0x0000#16 && sz t == (false, true)) = true := by decide

/-- 2.3 line 20 -/
theorem test_div_unsigned :
    gives (step (start [0x5D12#16] 0x0040#16 [(.g 1, 0xFFFF#16)] []))
      (fun t => t.readReg (.g 1) == 0x7FFF#16 && sz t == (false, false)) = true := by decide

/-- 2.3 line 27 -/
theorem test_div_by_zero :
    gives (step (start [0x5D10#16] 0x0085#16 [(.g 1, 0x0064#16), (.sp, 0x1000#16)] [(0xFFF8, 0xE200#16)]))
      (fun t => t.readReg (.g 1) == 0x0064#16 && wordAt t 0x0FFE#16 == some 0x0100#16 &&
        wordAt t 0x0FFC#16 == some 0x0085#16 && t.readReg .flag == 0x0045#16 && t.pc == 0xE200#16) = true := by decide

/-- 2.3 line 25 -/
theorem test_mod :
    gives (step (start [0x6210#16, 0x0010#16] 0x0040#16 [(.g 1, 0xFFFF#16)] []))
      (fun t => t.readReg (.g 1) == 0x000F#16 && sz t == (false, false)) = true := by decide

/-- 2.4 line 2 -/
theorem test_shla :
    gives (step (start [0x8511#16] 0x0040#16 [(.g 1, 0x8000#16)] []))
      (fun t => t.readReg (.g 1) == 0x0000#16 && t.flag.c && sz t == (false, true)) = true := by decide

/-- 2.4 line 7 -/
theorem test_shll_count_masked :
    gives (step (start [0x8D18#16] 0x0040#16 [(.g 1, 0x0001#16)] []))
      (fun t => t.readReg (.g 1) == 0x0100#16 && sz t == (false, false)) = true := by decide

/-- 2.4 line 12 -/
theorem test_shra_keeps_sign :
    gives (step (start [0x9511#16] 0x0040#16 [(.g 1, 0x8001#16)] []))
      (fun t => t.readReg (.g 1) == 0xC000#16 && t.flag.c && sz t == (true, false)) = true := by decide

/-- 2.4 line 14 -/
theorem test_shrl :
    gives (step (start [0x9D11#16] 0x0040#16 [(.g 1, 0x8005#16)] []))
      (fun t => t.readReg (.g 1) == 0x4002#16 && t.flag.c && sz t == (false, false)) = true := by decide

/-- The jumps of 2.5 with VCSZ as given: the rows 0001, 0110, 1000, 1010 and 1111 of the truth table. -/
def jumpsTaken (flags : Word) : List Bool :=
  [0xA000#16, 0xA010#16, 0xA020#16, 0xA030#16, 0xA040#16, 0xA050#16, 0xA060#16, 0xA070#16, 0xA080#16, 0xA090#16,
   0xA0A0#16, 0xA0B0#16, 0xA0C0#16, 0xA0E0#16, 0xA0F0#16].map fun w =>
    gives (step (start [w, 0x0200#16] (0x0040#16 ||| flags) [] [])) fun t => t.pc == 0x0200#16

theorem test_jumps_0001 :
    jumpsTaken 0b0001#16 =
      [true, false, false, false, false, true, true, false, false, true, true, true, false, true, true] := by decide

theorem test_jumps_0110 :
    jumpsTaken 0b0110#16 =
      [false, true, true, false, false, false, true, true, true, false, false, true, false, true, true] := by decide

theorem test_jumps_1000 :
    jumpsTaken 0b1000#16 =
      [false, false, false, true, false, false, true, true, true, true, true, false, true, false, true] := by decide

theorem test_jumps_1010 :
    jumpsTaken 0b1010#16 =
      [false, false, true, true, true, true, false, false, true, true, false, false, true, false, true] := by decide

theorem test_jumps_1111 :
    jumpsTaken 0b1111#16 =
      [true, true, true, true, false, true, true, false, false, false, false, false, false, true, true] := by decide

/-- 2.5 line 4 -/
theorem test_jmp_wraps :
    gives (step (start [0xA1F1#16, 0x0010#16] 0x0040#16 [(.g 1, 0xFFF8#16)] []))
      (fun t => t.pc == 0x0008#16) = true := by decide

/-- 2.6 line 3 -/
theorem test_call_target_before_push :
    gives (step (start [0xA90D#16, 0x0000#16] 0x0040#16 [(.sp, 0x1000#16)] []))
      (fun t => t.ssp == 0x0FFE#16 && wordAt t 0x0FFE#16 == some 0x0104#16 && t.pc == 0x1000#16) = true := by decide

/-- 2.6 line 4 -/
theorem test_call_in_user_mode :
    gives (step (start [0xA800#16, 0x0200#16] 0x0000#16 [(.sp, 0x1000#16), (.usp, 0x0800#16)] []))
      (fun t => t.usp == 0x07FE#16 && wordAt t 0x07FE#16 == some 0x0104#16 && t.ssp == 0x1000#16) = true := by decide

/-- 2.6 line 10 -/
theorem test_ret_wraps :
    gives (step (start [0xD000#16] 0x0040#16 [(.sp, 0xFFFE#16)] [(0xFFFE, 0x0104#16)]))
      (fun t => t.pc == 0x0104#16 && t.ssp == 0x0000#16) = true := by decide

/-- 2.7 line 1 -/
theorem test_push :
    gives (step (start [0xC030#16] 0x0040#16 [(.sp, 0x1000#16), (.g 3, 0x1234#16)] []))
      (fun t => t.ssp == 0x0FFE#16 && t.byteAt? 0x0FFE#16 == some 0x12#8 && t.byteAt? 0x0FFF#16 == some 0x34#8) = true := by decide

/-- 2.7 line 4 -/
theorem test_push_usp_in_user_mode :
    refuses (step (start [0xC0E0#16] 0x0000#16 [] [])) .pushPopOfSp = true := by decide

/-- 2.7 line 8 -/
theorem test_pop_flag :
    gives (step (start [0xC4F0#16] 0x0040#16 [(.sp, 0x0FFE#16)] [(0x0FFE, 0x00BF#16)]))
      (fun t => t.readReg .flag == 0x00BF#16 && t.ssp == 0x1000#16) = true := by decide

/-- 2.7 line 9 -/
theorem test_pop_flag_in_user_mode :
    gives (step (start [0xC4F0#16] 0x0000#16 [(.usp, 0x07FE#16)] [(0x07FE, 0x00FF#16)]))
      (fun t => t.readReg .flag == 0x001F#16 && t.usp == 0x0800#16) = true := by decide

/-- 2.8 line 11; a later IN need not read the same (20_memory.md R60). -/
theorem test_in_rn4020_cmd :
    gives (step (start [0xB000#16, 0x002C#16] 0x0040#16 [] []))
      (fun t => t.readReg (.g 0) == 0x0001#16 && t.pc == 0x0104#16 && !t.io.rn4020CmdInitial) = true := by decide

/-- 2.8 line 4 -/
theorem test_in_in_user_mode :
    gives (step (start [0xB000#16, 0x000A#16] 0x0000#16 [(.sp, 0x1000#16)] [(0xFFFA, 0xE300#16)]))
      (fun t => wordAt t 0x0FFE#16 == some 0x0100#16 && t.readReg .flag == 0x0040#16 && t.pc == 0xE300#16) = true := by decide

/-- 2.8 line 8 -/
theorem test_out_with_io_privilege :
    gives (step (start [0xB800#16, 0x0008#16] 0x0020#16 [(.g 0, 0x0041#16)] []))
      (fun t => t.outEvents == [(0x0008#16, 0x0041#16)] && t.pc == 0x0104#16) = true := by decide

/-- 2.8 line 10 -/
theorem test_out_enabling_mmu :
    refuses (step (start [0xB800#16, 0x00A2#16] 0x0040#16 [(.g 0, 0x0001#16)] [])) .mmuEnabled = true := by decide

/-- 2.9 line 3 -/
theorem test_reti_in_user_mode :
    gives (step (start [0xD4F0#16] 0x0000#16 [(.usp, 0x07FC#16)] [(0x07FC, 0x00FF#16), (0x07FE, 0x0300#16)]))
      (fun t => t.readReg .flag == 0x001F#16 && t.pc == 0x0300#16 && t.usp == 0x0800#16) = true := by decide

/-- 2.9 line 1 -/
theorem test_reti :
    gives (step (start [0xD4F0#16] 0x0040#16 [(.sp, 0x0FFC#16)] [(0x0FFC, 0x0003#16), (0x0FFE, 0x0300#16)]))
      (fun t => t.readReg .flag == 0x0003#16 && t.pc == 0x0300#16 && t.ssp == 0x1000#16) = true := by decide

/-- 2.9 line 7, the PC apart -/
theorem test_svc :
    gives (step (start [0xF000#16] 0x00DA#16 [(.sp, 0x1000#16)] [(0xFFFE, 0xE100#16)]))
      (fun t => wordAt t 0x0FFE#16 == some 0x0102#16 && wordAt t 0x0FFC#16 == some 0x00DA#16 &&
        t.ssp == 0x0FFC#16 && t.readReg .flag == 0x005A#16 && t.pc == 0xE100#16) = true := by decide

/-- 2.9 line 9 -/
theorem test_halt :
    gives (step (start [0xFF00#16] 0x0040#16 [] []))
      (fun t => t.halted && t.pc == 0x0102#16) = true := by decide

/-- 2.9 line 10 -/
theorem test_halt_in_user_mode :
    gives (step (start [0xFF00#16] 0x0020#16 [(.sp, 0x1000#16)] [(0xFFFA, 0xE300#16)]))
      (fun t => wordAt t 0x0FFE#16 == some 0x0100#16 && t.readReg .flag == 0x0060#16 && t.pc == 0xE300#16) = true := by decide

/-- 2.10 line 4: of two requests the lower is taken, the other stays. -/
theorem test_interrupt :
    gives (step { start [0x0000#16] 0x00C0#16 [(.sp, 0x1000#16)] [(0xFFE2, 0xE410#16), (0xFFE6, 0xE430#16)] with
        irq := 0b0000001010#10 })
      (fun t => t.pc == 0xE410#16 && t.irq == 0b0000001000#10 && wordAt t 0x0FFE#16 == some 0x0100#16) = true := by decide

/-- A JMP placed right after reset, where the ROM covers the PC, and at the last word of memory. -/
theorem test_placed :
    gives (step (State.reset.withFetchWord 32 0x0200_A0F0)) (fun t => t.pc == 0x0200#16) = true ∧
    gives (step ({ afterIpl with pc := 0xFFFE#16 }.withFetchWord 32 0x0200_A0F0)) (fun t => t.pc == 0x0200#16) = true := by
  decide

/-- The layout of a TLB entry's lower word (20_memory.md R64), bits 14 and 13 being the free ones. -/
theorem test_tlb_low_word : (TlbEntry.reset.setLow 0x9534#16).lowWord 0b10#2 = 0xD534#16 := by decide

/-- 2.1 line 3: an unassigned word. -/
theorem test_unassigned : faults (step (start [0x0100#16] 0x0040#16 [] [])) (.illegalInstruction 0x0100#16) = true := by
  decide

/-- 2.1 line 19: a read of memory nothing has written. -/
theorem test_unwritten :
    faults (step (start [0x0810#16, 0x1000#16] 0x0040#16 [] [])) (.unwrittenMemory 0x1000#16) = true := by decide

/-! ### States that meet the hypotheses of the statements -/

/-- Privileged, stacks and a few registers set, a few words of memory written, the ROM detached. -/
def priv : State :=
  start [0xFF00#16] 0x0040#16
    [(.sp, 0x1000#16), (.usp, 0x0800#16), (.fp, 0x2000#16), (.g 1, 0x3000#16), (.g 2, 0x8000#16), (.g 3, 0x0008#16)]
    [(0x3000, 0x1234#16), (0x1000, 0x00C1#16), (0x1002, 0x0300#16), (0xFFFE, 0xE100#16), (0x0800, 0x00FF#16),
     (0x0802, 0x0400#16), (0xDFFE, 0x5678#16)]

/-- The same in user mode. -/
def user : State := { priv with flag := Flag.ofWord 0x0000#16 }

/-- The same in user mode with I = 1. -/
def userIo : State := { priv with flag := Flag.ofWord 0x0020#16 }

/-- The same with the ROM attached. -/
def attached : State := { priv with iplAttached := true }

/-- The same with E = 1 and requests 3 and 9. -/
def pending : State := { priv with flag := Flag.ofWord 0x00C0#16, irq := 0b1000001000#10 }

theorem witness_EncodeOfDecode : decodeWords [0x0912#16, 0x0002#16, 0xFF00#16] =
    .ok (.ld (.g 1) (.indexed 0x0002#16 (.g 2)), [0xFF00#16]) := by decide

theorem witness_UnassignedWordsFault :
    (∀ w ∈ [0x0100#16, 0x07FF#16, 0x1220#16, 0x6800#16, 0x7FFF#16, 0xA0D0#16, 0xA1DF#16, 0xFE00#16],
      decodeFirst w = .error .unassigned) ∧
    (let s := start [0x0100#16] 0x0040#16 [] [];
      s.halted = false ∧ s.flag.e = false ∧ readWord s s.pc = .value 0x0100#16) := by
  exact ⟨by simp only [List.forall_mem_cons]; exact ⟨rfl, rfl, rfl, rfl, rfl, rfl, rfl, rfl, nofun⟩, by decide⟩

theorem witness_ReservedFieldWordsRefused :
    (∀ w ∈ [0x0010#16, 0x0001#16, 0xD400#16, 0xD4F1#16, 0xA910#16, 0xA0E1#16, 0xC031#16, 0x0811#16, 0x9A1F#16],
      decodeFirst w = .error .reservedField) ∧
    (let s := start [0x0010#16] 0x0040#16 [] [];
      s.halted = false ∧ s.flag.e = false ∧ readWord s s.pc = .value 0x0010#16) := by
  exact ⟨by simp only [List.forall_mem_cons]; exact ⟨rfl, rfl, rfl, rfl, rfl, rfl, rfl, rfl, rfl, nofun⟩, by decide⟩

/-- A one-word instruction with E = 0, a two-word one with E = 1 and nothing pending. -/
theorem witness_StepRunsTheDecodedInstruction :
    (priv.halted = false ∧ priv.flag.e = false ∧ readWord priv priv.pc = .value 0xFF00#16 ∧
      decodeWords [0xFF00#16] = .ok (.halt, [])) ∧
    (let s := start [0xA0F0#16, 0x0200#16] 0x00C0#16 [] [];
      s.halted = false ∧ s.irq = 0#10 ∧ readWord s s.pc = .value 0xA0F0#16 ∧ readWord s (s.pc + 2#16) = .value 0x0200#16 ∧
      decodeWords [0xA0F0#16, 0x0200#16] = .ok (.jmp (.direct 0x0200#16), [])) := by decide

theorem witness_PlacedInstructionRunsNext :
    decodeTableWord 32 0x0000FF00 = some .halt ∧
    decodeTableWord 32 0x0200A0F0 = some (.jmp (.direct 0x0200#16)) := by decide

theorem witness_LowestPendingInterruptTaken :
    pending.halted = false ∧ pending.flag.e = true ∧ pending.irq.getLsbD IntSource.rn4020Tx.index = true ∧
    (∀ j, j < IntSource.rn4020Tx.index → pending.irq.getLsbD j = false) := by decide

theorem witness_RequestsWaitWhileDisabled :
    ({ pending with flag := Flag.ofWord 0x0040#16 } : State).flag.e = false ∧
    gives (step { pending with flag := Flag.ofWord 0x0040#16 }) (fun t => t.irq == 0b1000001000#10) = true := by decide

theorem witness_RegisterWrites : Reg.usp ≠ .flag ∧ priv.flag.p = true ∧ user.flag.p = false := by decide

theorem witness_FlagWriteByMode : (Flag.ofWord 0x0040#16).p = true ∧ (Flag.ofWord 0x00BF#16).p = false := by decide

/-- The last word below the attached ROM, and the last of memory with the ROM detached; a word whose first byte has no
value, and one whose second has none, at an operand, a stack pointer and a PC. -/
theorem witness_WordWriteReadsBack :
    (attached.mmu.enabled = false ∧ (0xDFFE#16 : Word).toNat % 2 = 0 ∧ attached.inRom 0xDFFE#16 = false) ∧
    (priv.mmu.enabled = false ∧ (0xFFFE#16 : Word).toNat % 2 = 0 ∧ priv.inRom 0xFFFE#16 = false) ∧
    (priv.byteAt? 0x3000#16 = some 0x12#8 ∧ priv.byteAt? 0x3001#16 = some 0x34#8 ∧ priv.byteAt? 0x3002#16 = none ∧
      readOperand priv (.direct 0x3002#16) = readWord priv 0x3002#16 ∧
      ({ priv with ssp := 0x3002#16 } : State).readReg .sp = 0x3002#16) ∧
    (let s := { priv with pc := 0x4000#16, mem := priv.mem.write 0x4000 0x00#8 };
      (s.byteAt? 0x4000#16).isSome = true ∧ s.byteAt? 0x4001#16 = none ∧ s.pc = 0x4000#16 ∧ s.halted = false ∧
      s.flag.e = false) := by decide

/-- Of each clause, at the lowest or the highest odd address: the PC, an operand, an effective address, a push and a pop
there; and a store at an odd address of the attached ROM (log 48). -/
theorem witness_OddWordAccessRaises :
    priv.mmu.enabled = false ∧ (0x0001#16 : Word).toNat % 2 = 1 ∧ (0xFFFF#16 : Word).toNat % 2 = 1 ∧
    (let s := { priv with pc := 0xFFFF#16 }; s.pc = 0xFFFF#16 ∧ s.halted = false ∧ s.irq = 0#10) ∧
    readOperand priv (.direct 0x0001#16) = readWord priv 0x0001#16 ∧ Reg.g 1 ≠ .flag ∧
    storeEA priv (.direct 0xFFFF#16) = 0xFFFF#16 ∧
    ({ priv with ssp := 0x0001#16 } : State).readReg .sp - 2#16 = 0xFFFF#16 ∧
    ({ user with usp := 0xFFFF#16 } : State).readReg .sp = 0xFFFF#16 ∧ Reg.fp ≠ .sp ∧
    ({ priv with ssp := 0x0001#16 } : State).ssp.toNat % 2 = 1 ∧
    attached.mmu.enabled = false ∧ (0xE001#16 : Word).toNat % 2 = 1 ∧ attached.inRom 0xE001#16 = true ∧
    storeEA attached (.direct 0xE001#16) = 0xE001#16 := by decide

/-- The entry of an LD at an odd address through FFF6h (60_exceptions.md R222, under the setting of log 8). -/
theorem test_odd_operand :
    gives (step (start [0x0810#16, 0x1001#16] 0x0040#16 [(.sp, 0x1000#16), (.g 1, 0x1234#16)] [(0xFFF6, 0xE500#16)]))
      (fun t => t.pc == 0xE500#16 && wordAt t 0x0FFE#16 == some 0x0100#16 && t.mmu.cause == 0x0002#16 &&
        t.mmu.violAddr == 0x1001#16 && t.readReg (.g 1) == 0x1234#16) = true := by decide

/-- Of IplRomOverlay, ResetFactsOfTheSource and ResetState: the first and last address of the ROM, and the one before
it. Stores into the ROM: ST in both widths, a push at its last word and one at its first, the second word of a trap
frame there while the first is not. -/
theorem witness_IplRomOverlay :
    (attached.iplAttached = true ∧ 0xE000 ≤ (0xE000#16 : Word).toNat ∧ 0xE000 ≤ (0xFFFF#16 : Word).toNat) ∧
    (attached.mmu.enabled = false ∧ (0xE000#16 : Word).toNat % 2 = 0 ∧ storeEA attached (.direct 0xE000#16) = 0xE000#16 ∧
      ({ attached with fp := 0xFFFF#16 } : State).readReg .fp = 0xFFFF#16 ∧
      ({ attached with ssp := 0x0000#16 } : State).readReg .sp - 2#16 = 0xFFFE#16 ∧
      ({ attached with ssp := 0xE002#16 } : State).ssp - 2#16 = 0xE000#16 ∧ attached.flag.p = true ∧
      (let s := { attached with ssp := 0x0002#16 }; s.inRom (s.ssp - 2#16) = false ∧ s.ssp - 4#16 = 0xFFFE#16)) ∧
    (0xDFFF#16 : Word).toNat < 0xE000 ∧ priv.iplAttached = false ∧ priv.mmu.enabled = false := by decide

theorem witness_EffectiveAddressesWrapAndBytesZeroExtend :
    priv.mmu.enabled = false ∧ priv.byteAt? (priv.readReg (.g 1)) = some 0x12#8 := by decide

/-- Of LdLoadsItsOperand, CmpIsSubWithoutTheWrite and CompareThenJump, with Rd = FLAG. -/
theorem witness_LdLoadsItsOperand : readOperand priv (.indirect (.g 1)) = .value 0x1234#16 ∧
    priv.readReg .flag = 0x0040#16 := by decide

theorem witness_StStoresAWord :
    (∀ rx, StoreOperand.indexed 0xFFFE#16 (.g 1) ≠ .byteIndirect rx) ∧
    storeEA priv (.indexed 0xFFFE#16 (.g 1)) = 0x2FFE#16 ∧ priv.mmu.enabled = false ∧
    (0x2FFE#16 : Word).toNat % 2 = 0 ∧ priv.inRom 0x2FFE#16 = false :=
  ⟨nofun, by decide⟩

theorem witness_StStoresAByte : priv.readReg (.g 1) = 0x3000#16 ∧ priv.mmu.enabled = false ∧
    priv.inRom 0x3000#16 = false := by decide

/-- Of AddResultAndFlags, SubResultAndFlags, BitwiseResultsAndFlags, AddsAndMulResults, DivAndModResults,
LeftShiftResults and RightShiftResults. -/
theorem witness_ArithmeticResults :
    Reg.g 2 ≠ .flag ∧ priv.readReg (.g 2) = 0x8000#16 ∧ readOperand priv (.direct 0x3000#16) = .value 0x1234#16 ∧
    (0x1234#16 : Word) ≠ 0#16 := by decide

/-- A count of one, of LeftShiftResults and RightShiftResults. -/
theorem witness_ShiftByOne : readOperand priv (.imm 0x0011#16) = .value 0x0011#16 ∧
    1 = (0x0011#16 : Word).toNat % 16 := by decide

theorem witness_ZeroDivisorTraps : Reg.g 2 ≠ .flag ∧ readOperand priv (.imm4 0#4) = .value 0#16 := by decide

theorem witness_RefusedRegisters :
    Instr.div .flag (.imm 0#16) ∈ [Instr.add .flag (.imm 0#16), .div .flag (.imm 0#16)] ∧ user.flag.p = false := by decide

/-- Of CallPushesTheReturnAddress and PushStoresBelow: the stack pointer at its lowest and at its highest even value. -/
theorem witness_CallAndPush :
    (let s := { priv with ssp := 0x0002#16 };
      s.readReg .sp - 2#16 = 0x0000#16 ∧ s.mmu.enabled = false ∧ s.inRom 0x0000#16 = false) ∧
    (let s := { priv with ssp := 0x0000#16 };
      s.readReg .sp - 2#16 = 0xFFFE#16 ∧ (0xFFFE#16 : Word).toNat % 2 = 0 ∧ s.inRom 0xFFFE#16 = false) ∧
    Reg.usp ≠ .sp ∧ priv.flag.p = true := by decide

/-- Of RetPopsThePc, PopLoadsAndMovesUp and RetiPopsFlagAndPc: the words at the stack pointer, in both modes. -/
theorem witness_PoppingInstructions :
    readWord priv (priv.readReg .sp) = .value 0x00C1#16 ∧ readWord priv (priv.readReg .sp + 2#16) = .value 0x0300#16 ∧
    readWord user (user.readReg .sp) = .value 0x00FF#16 ∧ readWord user (user.readReg .sp + 2#16) = .value 0x0400#16 ∧
    Reg.flag ≠ .sp := by decide

/-- Ports that the map does not list, or not in that direction: odd, between rows, beyond the map. -/
theorem witness_IoMapPorts :
    priv.flag.p = true ∧ userIo.flag.i = true ∧
    [0x01#16, 0x1A#16, 0x3A#16, 0xA0#16, 0xA8#16, 0x0100#16].map inPort? = List.replicate 6 none ∧
    [0x01#16, 0x1E#16, 0x30#16, 0xA4#16, 0xAA#16, 0x0100#16].map outPort? = List.replicate 6 none ∧
    portAddr priv (.direct 0x001A#16) = 0x001A#16 := by decide

/-- RN4020-Cmd before its first access and after one. -/
theorem witness_PortReadValues :
    priv.io.rn4020CmdInitial = true ∧ (writeIo priv.io .rn4020Cmd 0x0001#16).rn4020CmdInitial = false ∧
    (readPort priv .rn4020Cmd).2.io.rn4020CmdInitial = false := by decide

theorem witness_OutSetsTheRegisterItReaches : (0x34#8 : Byte) = (0x1234#16 : Word).extractLsb' 0 8 := by decide

theorem witness_InReadsThePort :
    priv.flag.p = true ∧ userIo.flag.i = true ∧ inPort? (portAddr priv (.direct 0x00FE#16)) = some (.device .functionReg) ∧
    inPort? (portAddr userIo (.indirect (.g 3))) = some (.device (.serialData .ft232rl)) := by decide

theorem witness_OutWritesThePort :
    priv.flag.p = true ∧ userIo.flag.i = true ∧ outPort? (portAddr priv (.indirect (.g 3))) = some (.serialData .ft232rl) ∧
    outRefusal priv (.serialData .ft232rl) 0x1234#16 = none ∧ outRefusal attached .iplDetach 0x0000#16 = none := by decide

/-- A register with bit 0 = 1 and one with bit 0 = 0, the ROM attached and not, both forms, both modes. -/
theorem witness_IplAndMmuSwitches :
    priv.flag.p = true ∧ userIo.flag.i = true ∧ ({ priv with fp := 1#16 } : State).readReg .fp = 1#16 ∧
    (1#16 : Word).getLsbD 0 = true ∧ (priv.readReg (.g 2)).getLsbD 0 = false ∧ attached.flag.p = true ∧
    attached.iplAttached = true ∧ priv.iplAttached = false ∧ priv.mmu.enabled = false ∧
    portAddr priv (.direct 0x00A0#16) = 0x00A0#16 ∧
    portAddr { userIo with fp := 0x00A2#16 } (.indirect .fp) = 0x00A2#16 := by decide

theorem witness_InterruptEnablesFollowControlPorts :
    priv.io.intEnable .timer1 = false ∧
    ({ priv with io := writeIo priv.io (.timerControl .t1) 0x8000#16 } : State).io.intEnable .timer1 = true ∧
    gives (exec .halt priv) (fun t => t.halted) = true := by decide

theorem witness_TlbEntryReadsBack :
    writeMmu (writeMmu priv.mmu (.tlbHigh 0) 0x0012#16) (.tlbLow 0) 0x9FAB#16 =
      writeMmu (writeMmu priv.mmu (.tlbHigh 0) 0x0012#16) (.tlbLow 0) 0x9FAB#16 ∧ (7 : Fin 8) ≠ 0 := ⟨rfl, by decide⟩

/-- Of TrapEntryEffect and SvcEntersThroughItsVector. -/
theorem witness_TrapEntryEffect :
    priv.mmu.enabled = false ∧ priv.ssp.toNat % 2 = 0 ∧ priv.inRom (priv.ssp - 2#16) = false ∧
    priv.inRom (priv.ssp - 4#16) = false ∧ (0xFFFE#16 : Word) ≠ priv.ssp - 2#16 ∧ (0xFFFE#16 : Word) ≠ priv.ssp - 4#16 ∧
    priv.ssp ≠ 0x0000#16 ∧ priv.ssp ≠ 0x0002#16 ∧ readWord priv 0xFFFE#16 = .value 0xE100#16 := by decide

theorem witness_PrivilegeViolationsTrap : user.flag.p = false ∧ user.flag.i = false := by decide

theorem witness_HaltStopsInPrivilegedMode : priv.flag.p = true ∧ ({ priv with halted := true } : State).halted = true := by
  decide

theorem witness_RetiUndoesTrapEntry :
    gives (trapEntry 0xFFFE#16 0x0102#16 priv) (fun t => t.ssp == 0x0FFC#16) = true := by decide

theorem witness_StepKeepsInv : priv.mem.wf = true ∧ priv.mmu.enabled = false ∧
    gives (step priv) (fun t => t.halted) = true := by decide

/-- A reset of a state whose RAM holds something. -/
theorem witness_ResetState : priv.mem ≠ [] ∧ (hostMove .reset priv).mem = [] := by decide

theorem witness_ReachableStatesHaveInv :
    priv.Inv ∧ Reachable (hostMove (.writeByte 0x0000#16 0x12#8) State.reset) :=
  ⟨⟨by decide, by decide⟩, .move _ .reset⟩

/-- In user mode a step that stays there and one that enters a trap. -/
theorem witness_UserModeIsLeftOnlyByTrapEntry :
    gives (step (start [0x0AF0#16, 0x00FF#16] 0x0000#16 [] [])) (fun t => !t.flag.p) = true ∧
    gives (step { start [0xF000#16] 0x0000#16 [(.sp, 0x1000#16)] [(0xFFFE, 0xE100#16)] with irq := 0#10 })
      (fun t => t.flag.p) = true := by decide

theorem witness_IplStaysDetached : priv.iplAttached = false ∧ gives (step priv) (fun _ => true) = true := by decide

/-- An instruction that takes no exception, and one that does. -/
theorem witness_OnlyStoringInstructionsWriteMemory :
    gives (exec .halt priv) (fun t => t.halted) = true ∧ gives (exec .svc priv) (fun t => t.ssp == 0x0FFC#16) = true := by
  decide

end Sys2Proof.Tests
end

/-! Proofs about the registers and the reset state: reads after writes of a register, FLAG as a word, the addresses that
show the IPL ROM; with them the statements of 10_state.md. -/

namespace Sys2Proof.Machine

/-! ### Reads after a write of a register (10_state.md R24, R25) -/

/-- A general register is seen by its own number alone. -/
@[simp] theorem readReg_writeReg_g (s : State) (n : Fin 12) (v : Word) (x : Reg) :
    (s.writeReg (.g n) v).readReg x = if x = .g n then v else s.readReg x := by
  cases x with
  | g m => simp [State.readReg, State.writeReg, Vector.getElem_set, Fin.val_inj, eq_comm]
  | fp => rfl
  | sp => rfl
  | usp => rfl
  | flag => rfl

/-- FP is seen by its own number alone. -/
@[simp] theorem readReg_writeReg_fp (s : State) (v : Word) (x : Reg) :
    (s.writeReg .fp v).readReg x = if x = .fp then v else s.readReg x := by
  cases x with
  | g m => rfl
  | fp => rfl
  | sp => rfl
  | usp => rfl
  | flag => rfl

/-- The stack pointer in use is seen by number D, and in user mode, where it is USP, by number E too. -/
@[simp] theorem readReg_writeReg_sp (s : State) (v : Word) (x : Reg) :
    (s.writeReg .sp v).readReg x = if x = .sp ∨ (s.flag.p = false ∧ x = .usp) then v else s.readReg x := by
  cases x with
  | g m => simp [State.readReg, State.writeReg]
  | fp => simp [State.readReg, State.writeReg]
  | sp => simp [State.readReg, State.writeReg]
  | usp => cases hp : s.flag.p <;> simp [State.readReg, State.writeReg, hp]
  | flag => simp [State.readReg, State.writeReg]

/-- USP is seen by number E, and in user mode by number D too. -/
@[simp] theorem readReg_writeReg_usp (s : State) (v : Word) (x : Reg) :
    (s.writeReg .usp v).readReg x = if x = .usp ∨ (s.flag.p = false ∧ x = .sp) then v else s.readReg x := by
  cases x with
  | g m => simp [State.readReg, State.writeReg]
  | fp => simp [State.readReg, State.writeReg]
  | sp => cases hp : s.flag.p <;> simp [State.readReg, State.writeReg, State.sp, hp]
  | usp => simp [State.readReg, State.writeReg]
  | flag => simp [State.readReg, State.writeReg]

/-- A read after a write, for any two numbers but a write of number F: the two agree when they name one register, and only
D and E in user mode do so without being equal. -/
theorem readReg_writeReg (s : State) (v : Word) {r : Reg} (x : Reg) (hr : r ≠ .flag) :
    (s.writeReg r v).readReg x =
      if x = r ∨ (s.flag.p = false ∧ ((r = .sp ∧ x = .usp) ∨ (r = .usp ∧ x = .sp))) then v else s.readReg x := by
  cases r with
  | g n => simp
  | fp => simp
  | sp => simp
  | usp => simp
  | flag => exact absurd rfl hr

/-- Settles O11: the read by `readReg_writeReg`, the frame of each number by the definition of its write, number D by the
bank that the mode selects. -/
theorem registerWrites : Obligations.RegisterWrites := by
  intro s v
  exact ⟨fun r x hr => readReg_writeReg s v x hr, fun _ => rfl, rfl, setSp_privileged s v, setSp_user s v, rfl, rfl⟩

/-! ### FLAG as a word -/

/-- The word of FLAG has zeros in bits 15..8 (10_state.md R24). -/
@[simp] theorem toWord_upper (f : Flag) : f.toWord.extractLsb' 8 8 = 0#8 := by
  obtain ⟨e, p, i, u, v, c, s, z⟩ := f
  revert e p i u v c s z
  decide

/-- Settles O10: the numbers by `ofCode_code`, the bits of number F by `ofWord_toWord`. -/
theorem registerNumbersRead : Obligations.RegisterNumbersRead := by
  refine ⟨fun n => ofCode_code (.g n), ofCode_code .fp, ofCode_code .sp, ofCode_code .usp, ofCode_code .flag, ?_⟩
  intro s
  have hflag : Flag.ofWord (s.readReg .flag) = s.flag := ofWord_toWord s.flag
  exact ⟨fun _ => rfl, rfl, rfl, rfl, toWord_upper s.flag, congrArg Flag.e hflag, congrArg Flag.p hflag,
    congrArg Flag.i hflag, congrArg Flag.u hflag, congrArg Flag.v hflag, congrArg Flag.c hflag, congrArg Flag.s hflag,
    congrArg Flag.z hflag⟩

/-! ### The IPL ROM after reset (20_memory.md R53) -/

/-- The ROM's index of an address of the top 8 KiB is its distance from E000h. -/
theorem setWidth_of_top {a : Word} (h : 0xE000 ≤ a.toNat) : a.setWidth 13 = BitVec.ofNat 13 (a.toNat - 0xE000) := by
  apply BitVec.eq_of_toNat_eq
  rw [BitVec.toNat_setWidth, BitVec.toNat_ofNat]
  omega

/-- While the ROM is attached, every address from E000h on shows its byte. -/
theorem byteAt_of_attached {s : State} {a : Word} (hs : s.iplAttached = true) (ha : 0xE000 ≤ a.toNat) :
    s.byteAt? a = some (Config.iplImage (BitVec.ofNat 13 (a.toNat - 0xE000))) := by
  simp [State.byteAt?, State.inRom, hs, ha, setWidth_of_top ha]

/-- Settles O52: the overlay by `byteAt_of_attached`, the rest by the values of the reset state. -/
theorem resetFactsOfTheSource : Obligations.ResetFactsOfTheSource :=
  ⟨rfl, fun _ ha => byteAt_of_attached rfl ha, rfl, fun _ => ⟨rfl, rfl, rfl⟩⟩

end Sys2Proof.Machine

/-! Proofs about the operand forms: the fields of the first word that choose one, and the value each reads; with them a
statement of 30_encoding.md. -/

namespace Sys2Proof

/-! ### Fields of the first word as numbers (30_encoding.md R80) -/

/-- Bits 3..0 of a first word. -/
theorem toNat_loField (w : Word) : (loField w).toNat = w.toNat % 16 := by
  simp [loField]

/-- Bits 10..8 of a first word. -/
theorem toNat_formField (w : Word) : (formField w).toNat = w.toNat / 256 % 8 := by
  simp [formField, Nat.shiftRight_eq_div_pow]

end Sys2Proof

namespace Sys2Proof.Machine

/-! ### The FP-relative address (30_encoding.md R90) -/

/-- FP + 2 * s(D4) computed with integers and then cut to 16 bits is the sum computed with words. -/
theorem fpRelEA_eq_ofInt (s : State) (d4 : BitVec 4) :
    fpRelEA s d4 = BitVec.ofInt 16 (s.fp.toNat + 2 * d4.toInt) := by
  have hfp : BitVec.ofInt 16 s.fp.toNat = s.fp := by rw [BitVec.ofInt_natCast, BitVec.ofNat_toNat, BitVec.setWidth_eq]
  have hd4 : BitVec.ofInt 16 d4.toInt = d4.signExtend 16 := rfl
  rw [BitVec.ofInt_add, BitVec.ofInt_mul, hfp, hd4]
  rfl

/-- Settles O16: the fields by `toNat_loField` and `toNat_formField`, the address of form 3 by `fpRelEA_eq_ofInt`; the
other forms are `decodeOperand` and `readOperand` at their constructors, form 5 with the model's sign extension being
the word of the signed value. -/
theorem operandOfEachForm : Obligations.OperandOfEachForm := by
  refine ⟨fun w => ⟨toNat_loField w, toNat_formField w⟩, rfl, rfl, fun _ => ⟨rfl, rfl, rfl, rfl⟩, fun s => ?_⟩
  have hfpRel (d4 : BitVec 4) :
      readOperand s (.fpRel d4) = readWord s (BitVec.ofInt 16 (s.fp.toNat + 2 * d4.toInt)) :=
    congrArg (readWord s) (fpRelEA_eq_ofInt s d4)
  exact ⟨fun _ => rfl, fun _ => rfl, hfpRel, fun _ => rfl, fun _ => rfl, fun _ => rfl⟩

end Sys2Proof.Machine

/-! Proofs about the jumps: the words that decode to one, and the template they all run; with them a statement of
43_jump_call.md. -/

namespace Sys2Proof

/-! ### The words of a jump (30_encoding.md R98, R99) -/

/-- A first word made of the jumps' OP row, the fields of a target and the code of a condition starts that jump to that
target, whose second word is its displacement. -/
theorem decodeWords_jump {first : Word} {cond : BitVec 4} {mk : Target → Instr} (tgt : Target)
    (hmk : jumpOp cond = some mk) (hfirst : first = mkFirst 0b10100#5 tgt.fields.1 cond tgt.fields.2.1) :
    decodeWords (first :: tgt.fields.2.2) = .ok (mk tgt, []) := by
  have hrow (form : BitVec 3) (lo : BitVec 4) : decodeFields 0b10100#5 form cond lo = jumpFields form cond lo := rfl
  have hfields : decodeFirst first = jumpFields tgt.fields.1 cond tgt.fields.2.1 := by
    rw [hfirst, decodeFirst_mkFirst, hrow]
  cases tgt with
  | direct dsp =>
    simp [decodeWords, hfields, Target.fields, jumpFields, hmk, decodeTarget, lowZero, FirstWord.map, Need.map]
  | indexed dsp rx =>
    simp [decodeWords, hfields, Target.fields, jumpFields, hmk, decodeTarget, FirstWord.map, Need.map]

end Sys2Proof

namespace Sys2Proof.Machine

/-! ### Where a jump goes (43_jump_call.md R160) -/

/-- A jump taken when a flag is set: it is not of `PRIVILEGED_SET`, so it runs in every mode. -/
theorem exec_jump_if_set {i : Instr} {tgt : Target} {s : State} (f : Bool) (hi : Setting.privileged i = false)
    (harm : exec i s = guarded i s (jumpIf f tgt s)) :
    exec i s = .next { s with pc := if f = true then targetEA s tgt else s.pc + 4#16 } := by
  rw [harm, guarded_of_unprivileged _ hi]
  rfl

/-- A jump taken when a flag is clear. -/
theorem exec_jump_if_clear {i : Instr} {tgt : Target} {s : State} (f : Bool) (hi : Setting.privileged i = false)
    (harm : exec i s = guarded i s (jumpIf (!f) tgt s)) :
    exec i s = .next { s with pc := if f = false then targetEA s tgt else s.pc + 4#16 } := by
  simp only [exec_jump_if_set (!f) hi harm, Bool.not_eq_true']

/-- Settles O31: the words by `decodeWords_jump` at their condition codes, the next states by `exec_jump_if_set` and
`exec_jump_if_clear` at the flag that each jump tests, JMP as the jump on a flag that is always set. -/
theorem oneFlagJumps : Obligations.OneFlagJumps := by
  refine ⟨fun w => ?_, fun tgt s => ?_⟩
  · have hdirect {first : Word} {mk : Target → Instr} (cond : BitVec 4) (hmk : jumpOp cond = some mk)
        (hfirst : first = mkFirst 0b10100#5 0#3 cond 0#4) : decodeWords [first, w] = .ok (mk (.direct w), []) :=
      decodeWords_jump (.direct w) hmk hfirst
    have hindexed : 0xA1F1#16 = mkFirst 0b10100#5 1#3 0xF#4 (Reg.g 1).code := by decide
    exact ⟨hdirect 0x0#4 rfl rfl, hdirect 0x1#4 rfl rfl, hdirect 0x2#4 rfl rfl, hdirect 0x3#4 rfl rfl,
      hdirect 0x8#4 rfl rfl, hdirect 0x9#4 rfl rfl, hdirect 0xA#4 rfl rfl, hdirect 0xB#4 rfl rfl,
      hdirect 0xF#4 rfl rfl, decodeWords_jump (.indexed w (.g 1)) rfl hindexed⟩
  · exact ⟨exec_jump_if_set s.flag.z rfl rfl, exec_jump_if_set s.flag.c rfl rfl, exec_jump_if_set s.flag.s rfl rfl,
      exec_jump_if_set s.flag.v rfl rfl, exec_jump_if_clear s.flag.z rfl rfl, exec_jump_if_clear s.flag.c rfl rfl,
      exec_jump_if_clear s.flag.s rfl rfl, exec_jump_if_clear s.flag.v rfl rfl, exec_jump_if_set true rfl rfl⟩

end Sys2Proof.Machine

/-! Proofs about the decoder and the encoder: what a first word asks for and what it gives, as one relation that the
decoder and the encoder both meet; with it the statements of 30_encoding.md. -/

namespace Sys2Proof

/-! ### What a first word gives (30_encoding.md R82) -/

/-- What a first word asks for, given the words after it, is this value: none are left over and none are missing. -/
def Need.Yields {α : Type} (n : Need α) (ws : List Word) (a : α) : Prop :=
  match n with
  | .one x => ws = [] ∧ x = a
  | .two f => ∃ w, ws = [w] ∧ f w = a

/-- The first word is accepted, and with the words after it gives this value. -/
def FirstWord.Yields {α : Type} (r : FirstWord α) (ws : List Word) (a : α) : Prop :=
  ∃ n : Need α, r = .ok n ∧ n.Yields ws a

@[simp] theorem yields_one {α : Type} (x : α) (ws : List Word) (a : α) :
    FirstWord.Yields (.ok (.one x)) ws a ↔ ws = [] ∧ x = a := by
  simp [FirstWord.Yields, Need.Yields]

@[simp] theorem yields_two {α : Type} (f : Word → α) (ws : List Word) (a : α) :
    FirstWord.Yields (.ok (.two f)) ws a ↔ ∃ w, ws = [w] ∧ f w = a := by
  simp [FirstWord.Yields, Need.Yields]

@[simp] theorem not_yields_error {α : Type} (e : DecodeError) (ws : List Word) (a : α) :
    ¬ FirstWord.Yields (.error e) ws a := by
  simp [FirstWord.Yields]

/-- A bigger term is given exactly by what gives its part. -/
@[simp] theorem yields_map {α β : Type} (h : α → β) (r : FirstWord α) (ws : List Word) (b : β) :
    (FirstWord.map h r).Yields ws b ↔ ∃ a, r.Yields ws a ∧ h a = b := by
  cases r with
  | error e => simp [FirstWord.map]
  | ok n =>
    cases n with
    | one x => simp [FirstWord.map, Need.map]
    | two f =>
      simp only [FirstWord.map, Need.map, yields_two]
      exact ⟨fun ⟨w, hw, hb⟩ => ⟨f w, ⟨w, hw, rfl⟩, hb⟩, fun ⟨_, ⟨w, hw, ha⟩, hb⟩ => ⟨w, hw, by rw [ha, hb]⟩⟩

/-- A form whose low field is printed 0h gives its value only with that field. -/
@[simp] theorem yields_lowZero {α : Type} (lo : BitVec 4) (n : Need α) (ws : List Word) (a : α) :
    (lowZero lo n).Yields ws a ↔ lo = 0#4 ∧ n.Yields ws a := by
  unfold lowZero
  split
  · rename_i h
    simp [h, FirstWord.Yields]
  · rename_i h
    simp [h]

/-- A list of words decodes to what its first word gives with the words taken after it. -/
theorem decodeWords_cons {w : Word} {ws rest : List Word} {i : Instr} :
    decodeWords (w :: ws) = .ok (i, rest) ↔ ∃ taken, ws = taken ++ rest ∧ (decodeFirst w).Yields taken i := by
  cases hd : decodeFirst w with
  | error e => simp [decodeWords, hd]
  | ok n =>
    cases n with
    | one j => simp [decodeWords, hd, and_comm, eq_comm]
    | two f =>
      cases ws with
      | nil => simp [decodeWords, hd]
      | cons w2 tail =>
        simp only [decodeWords, hd, yields_two, Except.ok.injEq, Prod.mk.injEq]
        constructor
        · rintro ⟨hi, hrest⟩
          exact ⟨[w2], by rw [hrest]; rfl, w2, rfl, hi⟩
        · rintro ⟨taken, htail, v, rfl, hi⟩
          obtain ⟨rfl, hrest⟩ := List.cons.inj htail
          exact ⟨hi, hrest⟩

/-! ### The forms: decoder and encoder have one table (30_encoding.md R86, R96) -/

/-- The fields of an operand are those that give it. -/
theorem decodeOperand_yields (form : BitVec 3) (lo : BitVec 4) (ws : List Word) (o : Operand) :
    (decodeOperand form lo).Yields ws o ↔ o.fields = (form, lo, ws) := by
  constructor
  · unfold decodeOperand
    split <;> intro h <;> simp only [yields_one, yields_two, yields_lowZero, Need.Yields] at h
    all_goals grind [Operand.fields, code_ofCode]
  · cases o <;> simp only [Operand.fields, Prod.mk.injEq] <;> rintro ⟨rfl, rfl, rfl⟩ <;>
      simp [decodeOperand, Need.Yields]

/-- The fields of a destination of ST are those that give it. -/
theorem decodeStoreOperand_yields (form : BitVec 3) (lo : BitVec 4) (ws : List Word) (o : StoreOperand) :
    (decodeStoreOperand form lo).Yields ws o ↔ o.fields = (form, lo, ws) := by
  constructor
  · unfold decodeStoreOperand
    split <;> intro h <;> simp only [yields_one, yields_two, yields_lowZero, not_yields_error, Need.Yields] at h
    all_goals grind [StoreOperand.fields, code_ofCode]
  · cases o <;> simp only [StoreOperand.fields, Prod.mk.injEq] <;> rintro ⟨rfl, rfl, rfl⟩ <;>
      simp [decodeStoreOperand, Need.Yields]

/-- The fields of a target are those that give it. -/
theorem decodeTarget_yields (form : BitVec 3) (lo : BitVec 4) (ws : List Word) (o : Target) :
    (decodeTarget form lo).Yields ws o ↔ o.fields = (form, lo, ws) := by
  constructor
  · unfold decodeTarget
    split <;> intro h <;> simp only [yields_two, yields_lowZero, not_yields_error, Need.Yields] at h
    all_goals grind [Target.fields, code_ofCode]
  · cases o <;> simp only [Target.fields, Prod.mk.injEq] <;> rintro ⟨rfl, rfl, rfl⟩ <;>
      simp [decodeTarget, Need.Yields]

/-- The fields of a port are those that give it. -/
theorem decodePort_yields (form : BitVec 3) (lo : BitVec 4) (ws : List Word) (o : PortOperand) :
    (decodePort form lo).Yields ws o ↔ o.fields = (form, lo, ws) := by
  constructor
  · unfold decodePort
    split <;> intro h <;> simp only [yields_one, yields_lowZero, not_yields_error, Need.Yields] at h
    all_goals grind [PortOperand.fields, code_ofCode]
  · cases o <;> simp only [PortOperand.fields, Prod.mk.injEq] <;> rintro ⟨rfl, rfl, rfl⟩ <;>
      simp [decodePort, Need.Yields]

/-! ### The opcode map: decoder and encoder have one table (30_encoding.md R97 to R99) -/

/-- The encoder gives a mnemonic of all eight forms the OP row that the decoder looks up. -/
theorem encode_of_binaryOp {op5 : BitVec 5} {mk : Reg → Operand → Instr} (h : binaryOp op5 = some mk) (rd : Reg)
    (src : Operand) : encode (mk rd src) = emit op5 rd.code src.fields := by
  unfold binaryOp at h
  split at h <;> cases h <;> rfl

/-- The encoder gives a jump the condition that the decoder looks up. -/
theorem encode_of_jumpOp {cond : BitVec 4} {mk : Target → Instr} (h : jumpOp cond = some mk) (tgt : Target) :
    encode (mk tgt) = emit 0b10100#5 cond tgt.fields := by
  unfold jumpOp at h
  split at h <;> cases h <;> rfl

/-- The fifteen rows of the mnemonics with all eight forms. -/
theorem decodeFields_of_binaryOp {op5 : BitVec 5} {mk : Reg → Operand → Instr} (h : binaryOp op5 = some mk)
    (form : BitVec 3) (rd lo : BitVec 4) :
    decodeFields op5 form rd lo = FirstWord.map (mk (Reg.ofCode rd)) (decodeOperand form lo) := by
  simp [decodeFields, h]

/-- A jump gives its target, under a condition that has a jump. -/
theorem jumpFields_yields {form : BitVec 3} {cond lo : BitVec 4} {ws : List Word} {i : Instr} :
    (jumpFields form cond lo).Yields ws i ↔
      ∃ mk tgt, jumpOp cond = some mk ∧ (decodeTarget form lo).Yields ws tgt ∧ mk tgt = i := by
  unfold jumpFields
  split
  · rename_i mk hmk
    simp [hmk]
  · rename_i mk hmk
    simp [hmk]
  · rename_i h0 h1
    simp only [not_yields_error, false_iff]
    rintro ⟨mk, tgt, hmk, htgt, -⟩
    unfold decodeTarget at htgt
    split at htgt
    · exact h0 mk rfl hmk
    · exact h1 mk rfl hmk
    · exact not_yields_error _ _ _ htgt

/-- CALL gives its target, with the printed zero in the Rd field. -/
theorem callFields_yields {form : BitVec 3} {rd lo : BitVec 4} {ws : List Word} {i : Instr} :
    (callFields form rd lo).Yields ws i ↔ rd = 0#4 ∧ ∃ tgt, (decodeTarget form lo).Yields ws tgt ∧ .call tgt = i := by
  unfold callFields
  cases hn : decodeTarget form lo with
  | error e => simp
  | ok n =>
    by_cases hrd : rd = 0#4
    · simp only [hrd, if_true, true_and]
      exact yields_map Instr.call (.ok n) ws i
    · simp [hrd]

/-- An instruction of printed fields is given by those fields. -/
theorem fixedFields_yields {rd lo printed : BitVec 4} {i j : Instr} {ws : List Word} :
    (fixedFields rd lo printed i).Yields ws j ↔ rd = printed ∧ lo = 0#4 ∧ ws = [] ∧ i = j := by
  unfold fixedFields
  split
  · rename_i h
    simp [h.1, h.2]
  · rename_i h
    simp only [not_yields_error, false_iff]
    exact fun ⟨hrd, hlo, _⟩ => h ⟨hrd, hlo⟩

/-- PUSH and POP are given by their register and the printed zero. -/
theorem oneRegister_yields {rd lo : BitVec 4} {mk : Reg → Instr} {ws : List Word} {i : Instr} :
    (oneRegister rd lo mk).Yields ws i ↔ lo = 0#4 ∧ ws = [] ∧ mk (Reg.ofCode rd) = i := by
  simp [oneRegister, Need.Yields]

/-- What the fields of a first word give is encoded by those fields: each arm of the decoder against the arm of the
encoder. -/
theorem encode_of_decodeFields {op5 : BitVec 5} {form : BitVec 3} {rd lo : BitVec 4} {ws : List Word} {i : Instr}
    (h : (decodeFields op5 form rd lo).Yields ws i) : encode i = emit op5 rd (form, lo, ws) := by
  unfold decodeFields at h
  split at h
  · rename_i mk hmk
    obtain ⟨src, hsrc, rfl⟩ := (yields_map _ _ _ _).mp h
    rw [encode_of_binaryOp hmk, (decodeOperand_yields _ _ _ _).mp hsrc, code_ofCode]
  · split at h
    case h_2 => -- ST
      obtain ⟨dst, hdst, rfl⟩ := (yields_map _ _ _ _).mp h
      rw [encode, (decodeStoreOperand_yields _ _ _ _).mp hdst, code_ofCode]
    case h_3 => -- the jumps
      obtain ⟨mk, tgt, hmk, htgt, rfl⟩ := jumpFields_yields.mp h
      rw [encode_of_jumpOp hmk, (decodeTarget_yields _ _ _ _).mp htgt]
    case h_4 => -- CALL
      obtain ⟨rfl, tgt, htgt, rfl⟩ := callFields_yields.mp h
      rw [encode, (decodeTarget_yields _ _ _ _).mp htgt]
    case h_5 => -- IN
      obtain ⟨port, hport, rfl⟩ := (yields_map _ _ _ _).mp h
      rw [encode, (decodePort_yields _ _ _ _).mp hport, code_ofCode]
    case h_6 => -- OUT
      obtain ⟨port, hport, rfl⟩ := (yields_map _ _ _ _).mp h
      rw [encode, (decodePort_yields _ _ _ _).mp hport, code_ofCode]
    case h_7 | h_8 => -- PUSH, POP
      obtain ⟨rfl, rfl, rfl⟩ := oneRegister_yields.mp h
      rw [encode, code_ofCode]
    case h_13 => exact absurd h (not_yields_error _ _ _)
    all_goals -- NO, RET, RETI, SVC, HALT
      obtain ⟨rfl, rfl, rfl, rfl⟩ := fixedFields_yields.mp h
      rfl

/-- The encoding of an instruction is a first word that, with the word after it if there is one, gives the instruction
back. -/
def DecodesBack (i : Instr) : Prop :=
  ∃ w ws, encode i = w :: ws ∧ (decodeFirst w).Yields ws i

/-- It is enough to look at the fields. -/
theorem decodesBack_of_fields {i : Instr} {op5 : BitVec 5} {rd : BitVec 4} {f : BitVec 3 × BitVec 4 × List Word}
    (hi : encode i = emit op5 rd f) (h : (decodeFields op5 f.1 rd f.2.1).Yields f.2.2 i) : DecodesBack i :=
  ⟨_, _, hi, by rwa [decodeFirst_mkFirst]⟩

theorem decodesBack_binary (op5 : BitVec 5) {mk : Reg → Operand → Instr} (h : binaryOp op5 = some mk) (rd : Reg)
    (src : Operand) : DecodesBack (mk rd src) := by
  refine decodesBack_of_fields (encode_of_binaryOp h rd src) ?_
  rw [decodeFields_of_binaryOp h, yields_map, ofCode_code]
  exact ⟨src, (decodeOperand_yields _ _ _ _).mpr rfl, rfl⟩

theorem decodesBack_jump (cond : BitVec 4) {mk : Target → Instr} (h : jumpOp cond = some mk) (tgt : Target) :
    DecodesBack (mk tgt) :=
  decodesBack_of_fields (encode_of_jumpOp h tgt)
    (jumpFields_yields.mpr ⟨mk, tgt, h, (decodeTarget_yields _ _ _ _).mpr rfl, rfl⟩)

/-- Every instruction is given back by its encoding: the mnemonics of all eight forms and the jumps by their tables, the
others by their own arms. -/
theorem decodesBack (i : Instr) : DecodesBack i := by
  cases i with
  | no => exact decodesBack_of_fields rfl (fixedFields_yields.mpr ⟨rfl, rfl, rfl, rfl⟩)
  | ld rd src => exact decodesBack_binary 0b00001#5 rfl rd src
  | st rd dst =>
    refine decodesBack_of_fields rfl ((yields_map _ _ _ _).mpr ⟨dst, (decodeStoreOperand_yields _ _ _ _).mpr rfl, ?_⟩)
    rw [ofCode_code]
  | add rd src => exact decodesBack_binary 0b00011#5 rfl rd src
  | sub rd src => exact decodesBack_binary 0b00100#5 rfl rd src
  | cmp rd src => exact decodesBack_binary 0b00101#5 rfl rd src
  | and rd src => exact decodesBack_binary 0b00110#5 rfl rd src
  | or rd src => exact decodesBack_binary 0b00111#5 rfl rd src
  | xor rd src => exact decodesBack_binary 0b01000#5 rfl rd src
  | adds rd src => exact decodesBack_binary 0b01001#5 rfl rd src
  | mul rd src => exact decodesBack_binary 0b01010#5 rfl rd src
  | div rd src => exact decodesBack_binary 0b01011#5 rfl rd src
  | mod rd src => exact decodesBack_binary 0b01100#5 rfl rd src
  | shla rd src => exact decodesBack_binary 0b10000#5 rfl rd src
  | shll rd src => exact decodesBack_binary 0b10001#5 rfl rd src
  | shra rd src => exact decodesBack_binary 0b10010#5 rfl rd src
  | shrl rd src => exact decodesBack_binary 0b10011#5 rfl rd src
  | jz tgt => exact decodesBack_jump 0x0#4 rfl tgt
  | jc tgt => exact decodesBack_jump 0x1#4 rfl tgt
  | jm tgt => exact decodesBack_jump 0x2#4 rfl tgt
  | jo tgt => exact decodesBack_jump 0x3#4 rfl tgt
  | jgt tgt => exact decodesBack_jump 0x4#4 rfl tgt
  | jge tgt => exact decodesBack_jump 0x5#4 rfl tgt
  | jle tgt => exact decodesBack_jump 0x6#4 rfl tgt
  | jlt tgt => exact decodesBack_jump 0x7#4 rfl tgt
  | jnz tgt => exact decodesBack_jump 0x8#4 rfl tgt
  | jnc tgt => exact decodesBack_jump 0x9#4 rfl tgt
  | jnm tgt => exact decodesBack_jump 0xA#4 rfl tgt
  | jno tgt => exact decodesBack_jump 0xB#4 rfl tgt
  | jhi tgt => exact decodesBack_jump 0xC#4 rfl tgt
  | jls tgt => exact decodesBack_jump 0xE#4 rfl tgt
  | jmp tgt => exact decodesBack_jump 0xF#4 rfl tgt
  | call tgt =>
    exact decodesBack_of_fields rfl (callFields_yields.mpr ⟨rfl, tgt, (decodeTarget_yields _ _ _ _).mpr rfl, rfl⟩)
  | inp rd port =>
    refine decodesBack_of_fields rfl ((yields_map _ _ _ _).mpr ⟨port, (decodePort_yields _ _ _ _).mpr rfl, ?_⟩)
    rw [ofCode_code]
  | out rd port =>
    refine decodesBack_of_fields rfl ((yields_map _ _ _ _).mpr ⟨port, (decodePort_yields _ _ _ _).mpr rfl, ?_⟩)
    rw [ofCode_code]
  | push rd => exact decodesBack_of_fields rfl (oneRegister_yields.mpr ⟨rfl, rfl, by rw [ofCode_code]⟩)
  | pop rd => exact decodesBack_of_fields rfl (oneRegister_yields.mpr ⟨rfl, rfl, by rw [ofCode_code]⟩)
  | ret => exact decodesBack_of_fields rfl (fixedFields_yields.mpr ⟨rfl, rfl, rfl, rfl⟩)
  | reti => exact decodesBack_of_fields rfl (fixedFields_yields.mpr ⟨rfl, rfl, rfl, rfl⟩)
  | svc => exact decodesBack_of_fields rfl (fixedFields_yields.mpr ⟨rfl, rfl, rfl, rfl⟩)
  | halt => exact decodesBack_of_fields rfl (fixedFields_yields.mpr ⟨rfl, rfl, rfl, rfl⟩)

/-- Settles O1: every instruction is given back by the words of its encoding (`decodesBack`), and a list decodes to what
its first word gives with the words it takes. -/
theorem decodeOfEncodeGivesTheInstruction : Obligations.DecodeOfEncodeGivesTheInstruction := by
  intro i rest
  obtain ⟨w, ws, hi, h⟩ := decodesBack i
  rw [hi, List.cons_append, decodeWords_cons]
  exact ⟨ws, rfl, h⟩

/-- Settles O2: the fields of the first word encode what they give (`encode_of_decodeFields`), and a first word is made of
its fields. -/
theorem encodeOfDecodeGivesTheWords : Obligations.EncodeOfDecodeGivesTheWords := by
  intro ws rest i h
  cases ws with
  | nil => cases h
  | cons w ws =>
    obtain ⟨taken, rfl, hy⟩ := decodeWords_cons.mp h
    rw [encode_of_decodeFields hy, emit, mkFirst_fields]
    rfl

/-- Settles O3: each list is the encoding of the instruction it is to stand for. -/
theorem writtenOutWordsDecode : Obligations.WrittenOutWordsDecode := by
  have h (i : Instr) : decodeWords (encode i) = .ok (i, []) := by
    simpa using decodeOfEncodeGivesTheInstruction i []
  exact ⟨h (.ld (.g 1) (.indexed 0x0002#16 (.g 2))), h (.ld (.g 1) (.fpRel 0xF#4)),
    h (.st (.g 2) (.byteIndirect (.g 3))), h (.sub (.g 1) (.imm4 0x5#4)), h (.shrl (.g 1) (.imm4 0x1#4)),
    h (.jmp (.indexed 0x0000#16 (.g 1))), h (.out (.g 0) (.direct 0x00A0#16)), h (.pop .flag), h .reti, h .halt⟩

end Sys2Proof

/-! Proofs about the words the decoder rejects, and about the fetch: which first words have no meaning, what a step makes
of them, and that a step runs the instruction at the PC; with them statements of 30_encoding.md. -/

namespace Sys2Proof

/-! ### Which fields are rejected (30_encoding.md R101, R102) -/

/-- Exactly when a first word is unassigned, and exactly when a printed field of it is wrong; it is rejected for nothing
else. -/
structure Rejects {α : Type} (r : FirstWord α) (unassigned misprinted : Prop) : Prop where
  unassigned_iff : r = .error .unassigned ↔ unassigned
  misprinted_iff : r = .error .reservedField ↔ misprinted
  not_truncated : r ≠ .error .truncated

theorem Rejects.congr {α : Type} {r : FirstWord α} {p p' q q' : Prop} (h : Rejects r p q) (hp : p ↔ p') (hq : q ↔ q') :
    Rejects r p' q' :=
  ⟨h.unassigned_iff.trans hp, h.misprinted_iff.trans hq, h.not_truncated⟩

theorem rejects_ok {α : Type} (n : Need α) {p q : Prop} (hp : ¬ p) (hq : ¬ q) : Rejects (.ok n) p q :=
  ⟨by simp [hp], by simp [hq], by simp⟩

theorem rejects_unassigned {α : Type} {p q : Prop} (hp : p) (hq : ¬ q) :
    Rejects (.error .unassigned : FirstWord α) p q :=
  ⟨by simp [hp], by simp [hq], by simp⟩

theorem rejects_reservedField {α : Type} {p q : Prop} (hp : ¬ p) (hq : q) :
    Rejects (.error .reservedField : FirstWord α) p q :=
  ⟨by simp [hp], by simp [hq], by simp⟩

/-- A bigger term is rejected for its part. -/
theorem Rejects.map {α β : Type} {r : FirstWord α} {p q : Prop} (h : Rejects r p q) (f : α → β) :
    Rejects (FirstWord.map f r) p q := by
  have key (e : DecodeError) : FirstWord.map f r = .error e ↔ r = .error e := by cases r <;> simp [FirstWord.map]
  exact ⟨(key _).trans h.unassigned_iff, (key _).trans h.misprinted_iff, fun ht => h.not_truncated ((key _).mp ht)⟩

theorem toNat_ne_zero_iff {n : Nat} (x : BitVec n) : x.toNat ≠ 0 ↔ x ≠ 0#n := by
  rw [Ne, Ne, ← BitVec.toNat_inj, BitVec.toNat_ofNat, Nat.zero_mod]

theorem lowZero_rejects {α : Type} (lo : BitVec 4) (n : Need α) : Rejects (lowZero lo n) False (lo.toNat ≠ 0) := by
  rw [toNat_ne_zero_iff]
  unfold lowZero
  split
  · rename_i h
    exact rejects_ok n not_false (not_not_intro h)
  · rename_i h
    exact rejects_reservedField not_false h

theorem decodeOperand_rejects (form : BitVec 3) (lo : BitVec 4) :
    Rejects (decodeOperand form lo) False ((form.toNat = 0 ∨ form.toNat = 2) ∧ lo.toNat ≠ 0) := by
  unfold decodeOperand
  split
  case h_1 | h_3 => exact (lowZero_rejects lo _).congr Iff.rfl (by simp)
  all_goals exact rejects_ok _ not_false (by simp)

theorem decodeStoreOperand_rejects (form : BitVec 3) (lo : BitVec 4) :
    Rejects (decodeStoreOperand form lo) (form.toNat = 2 ∨ form.toNat = 4 ∨ form.toNat = 5)
      (form.toNat = 0 ∧ lo.toNat ≠ 0) := by
  unfold decodeStoreOperand
  split
  case h_1 => exact (lowZero_rejects lo _).congr (by simp) (by simp)
  case h_6 =>
    simp only [imp_false] at *
    exact rejects_unassigned (by bv_omega) (by bv_omega)
  all_goals exact rejects_ok _ (by simp) (by simp)

theorem decodeTarget_rejects (form : BitVec 3) (lo : BitVec 4) :
    Rejects (decodeTarget form lo) (2 ≤ form.toNat) (form.toNat = 0 ∧ lo.toNat ≠ 0) := by
  unfold decodeTarget
  split
  case h_1 => exact (lowZero_rejects lo _).congr (by simp) (by simp)
  case h_2 => exact rejects_ok _ (by simp) (by simp)
  case h_3 =>
    simp only [imp_false] at *
    exact rejects_unassigned (by bv_omega) (by bv_omega)

theorem decodePort_rejects (form : BitVec 3) (lo : BitVec 4) :
    Rejects (decodePort form lo) (form.toNat ≠ 0 ∧ form.toNat ≠ 6) (form.toNat = 0 ∧ lo.toNat ≠ 0) := by
  unfold decodePort
  split
  case h_1 => exact (lowZero_rejects lo _).congr (by simp) (by simp)
  case h_2 => exact rejects_ok _ (by simp) (by simp)
  case h_3 =>
    simp only [imp_false] at *
    exact rejects_unassigned (by bv_omega) (by bv_omega)

/-- A jump is unassigned for its form, or for the one condition that has no jump (30_encoding.md R99). -/
theorem jumpFields_rejects (form : BitVec 3) (cond lo : BitVec 4) :
    Rejects (jumpFields form cond lo) (2 ≤ form.toNat ∨ cond.toNat = 13)
      (form.toNat = 0 ∧ cond.toNat ≠ 13 ∧ lo.toNat ≠ 0) := by
  have hcond : jumpOp cond = none ↔ cond.toNat = 13 := by
    rw [← Option.isNone_iff_eq_none]
    revert cond
    decide
  have htarget (mk : Target → Instr) := (decodeTarget_rejects form lo).map mk
  cases hmk : jumpOp cond with
  | none =>
    have h : jumpFields form cond lo = .error .unassigned := by simp [jumpFields, hmk]
    rw [h]
    exact rejects_unassigned (.inr (hcond.mp hmk)) (fun h => h.2.1 (hcond.mp hmk))
  | some mk =>
    have hne : cond.toNat ≠ 13 := fun h => by simp [hcond.mpr h] at hmk
    have h : jumpFields form cond lo = FirstWord.map mk (decodeTarget form lo) := by
      by_cases h0 : form = 0#3
      · simp [h0, jumpFields, hmk]
      · by_cases h1 : form = 1#3
        · simp [h1, jumpFields, hmk]
        · rw [(htarget mk).unassigned_iff.mpr (by bv_omega)]
          simp [jumpFields, h0, h1]
    rw [h]
    exact (htarget mk).congr (by simp [hne]) (by simp [hne])

/-- CALL is unassigned for its form, and misprinted in either field. -/
theorem callFields_rejects (form : BitVec 3) (rd lo : BitVec 4) :
    Rejects (callFields form rd lo) (2 ≤ form.toNat)
      (form.toNat < 2 ∧ ((form.toNat = 0 ∧ lo.toNat ≠ 0) ∨ rd.toNat ≠ 0)) := by
  obtain ⟨hu, hm, htr⟩ := decodeTarget_rejects form lo
  rw [toNat_ne_zero_iff rd]
  cases ht : decodeTarget form lo with
  | error e =>
    have h : callFields form rd lo = .error e := by simp [callFields, ht]
    rw [ht] at hu hm htr
    rw [h]
    simp only [Except.error.injEq] at hu hm
    cases e with
    | unassigned =>
      have h2 : 2 ≤ form.toNat := hu.mp rfl
      exact rejects_unassigned h2 (by omega)
    | reservedField =>
      obtain ⟨h0, hlo⟩ := hm.mp rfl
      exact rejects_reservedField (by omega) ⟨by omega, .inl ⟨h0, hlo⟩⟩
    | truncated => exact absurd rfl htr
  | ok n =>
    have h : callFields form rd lo = if rd = 0#4 then .ok (n.map .call) else .error .reservedField := by
      simp [callFields, ht]
    simp only [ht, reduceCtorEq, false_iff] at hu hm
    rw [h]
    split
    · rename_i hrd
      exact rejects_ok _ hu fun ⟨_, h⟩ => h.elim hm (fun h => h hrd)
    · rename_i hrd
      exact rejects_reservedField hu ⟨by omega, .inr hrd⟩

theorem fixedFields_rejects (rd lo printed : BitVec 4) (i : Instr) :
    Rejects (fixedFields rd lo printed i) False (rd.toNat ≠ printed.toNat ∨ lo.toNat ≠ 0) := by
  unfold fixedFields
  split
  · rename_i h
    exact rejects_ok _ not_false (by simp [h])
  · rename_i h
    exact rejects_reservedField not_false (by bv_omega)

theorem oneRegister_rejects (rd lo : BitVec 4) (mk : Reg → Instr) :
    Rejects (oneRegister rd lo mk) False (lo.toNat ≠ 0) :=
  lowZero_rejects lo _

/-! ### The list of unassigned and of misprinted first words -/

/-- The empty cells of the opcode map, from the first to the last of each run (30_encoding.md R101). -/
def emptyCells : List (Nat × Nat) :=
  [(0x01, 0x07), (0x12, 0x12), (0x14, 0x15), (0x68, 0x7F), (0xA2, 0xA7), (0xAA, 0xAF), (0xB1, 0xB5), (0xB7, 0xB7),
   (0xB9, 0xBD), (0xBF, 0xBF), (0xC1, 0xC3), (0xC5, 0xCF), (0xD1, 0xD3), (0xD5, 0xEF), (0xF1, 0xFE)]

/-- The opcode is in one of the runs. -/
def EmptyCell (op : Nat) : Prop :=
  ∃ run ∈ emptyCells, run.1 ≤ op ∧ op ≤ run.2

theorem emptyCell_iff (op : Nat) : EmptyCell op ↔
    (0x01 ≤ op ∧ op ≤ 0x07) ∨ (0x12 ≤ op ∧ op ≤ 0x12) ∨ (0x14 ≤ op ∧ op ≤ 0x15) ∨ (0x68 ≤ op ∧ op ≤ 0x7F) ∨
    (0xA2 ≤ op ∧ op ≤ 0xA7) ∨ (0xAA ≤ op ∧ op ≤ 0xAF) ∨ (0xB1 ≤ op ∧ op ≤ 0xB5) ∨ (0xB7 ≤ op ∧ op ≤ 0xB7) ∨
    (0xB9 ≤ op ∧ op ≤ 0xBD) ∨ (0xBF ≤ op ∧ op ≤ 0xBF) ∨ (0xC1 ≤ op ∧ op ≤ 0xC3) ∨ (0xC5 ≤ op ∧ op ≤ 0xCF) ∨
    (0xD1 ≤ op ∧ op ≤ 0xD3) ∨ (0xD5 ≤ op ∧ op ≤ 0xEF) ∨ (0xF1 ≤ op ∧ op ≤ 0xFE) := by
  simp [EmptyCell, emptyCells]

/-- The empty cells, and the jumps with condition Dh (30_encoding.md R101). -/
def UnassignedOpcode (op cond : Nat) : Prop :=
  EmptyCell op ∨ ((op = 0xA0 ∨ op = 0xA1) ∧ cond = 0xD)

/-- The fields that are not as printed (30_encoding.md R102). -/
def MisprintedFields (op rd lo : Nat) : Prop :=
  ((op = 0x00 ∨ op = 0xD0 ∨ op = 0xF0 ∨ op = 0xFF ∨ op = 0xA8) ∧ (rd ≠ 0 ∨ lo ≠ 0)) ∨
  (op = 0xD4 ∧ (rd ≠ 0xF ∨ lo ≠ 0)) ∨
  (op = 0xA9 ∧ rd ≠ 0) ∨
  (op = 0xA0 ∧ rd ≠ 0xD ∧ lo ≠ 0) ∨
  ((op = 0xC0 ∨ op = 0xC4 ∨ op = 0x10 ∨ op = 0xB0 ∨ op = 0xB8) ∧ lo ≠ 0) ∨
  ((op % 8 = 0 ∨ op % 8 = 2) ∧
    (op / 8 = 1 ∨ (3 ≤ op / 8 ∧ op / 8 ≤ 12) ∨ (16 ≤ op / 8 ∧ op / 8 ≤ 19)) ∧ lo ≠ 0)

/-- The OP rows with all eight forms. -/
theorem binaryOp_isSome_iff (op5 : BitVec 5) : (binaryOp op5).isSome = true ↔
    op5.toNat = 1 ∨ (3 ≤ op5.toNat ∧ op5.toNat ≤ 12) ∨ (16 ≤ op5.toNat ∧ op5.toNat ≤ 19) := by
  revert op5
  decide

/-- The cells of the opcode map with a printed field. -/
def PrintedCell (op : Nat) : Prop :=
  op ∈ [0x00, 0xD0, 0xF0, 0xFF, 0xA8, 0xD4, 0xA9, 0xA0, 0xC0, 0xC4, 0x10, 0xB0, 0xB8] ∨
  (op % 8 ∈ [0, 2] ∧ op / 8 ∈ [1, 3, 4, 5, 6, 7, 8, 9, 10, 11, 12, 16, 17, 18, 19])

theorem printedCell_of_misprinted {op rd lo : Nat} (h : MisprintedFields op rd lo) : PrintedCell op := by
  simp only [PrintedCell, List.mem_cons, List.not_mem_nil, or_false]
  rcases h with ⟨h, -⟩ | ⟨h, -⟩ | ⟨h, -⟩ | ⟨h, -⟩ | ⟨h, -⟩ | ⟨hform, hrow, -⟩
  case inr.inr.inr.inr.inr => exact .inr ⟨hform, by omega⟩
  all_goals exact .inl (by omega)

/-- A cell of the opcode map that no arm of the decoder takes is one of the empty ones, and has no printed field. -/
theorem emptyCell_of_no_arm (op5 : BitVec 5) (form : BitVec 3) (hbinary : (binaryOp op5).isSome = false)
    (hrows : op5 ∉ [2#5, 20#5, 21#5, 22#5, 23#5])
    (hcells : (op5, form) ∉ [(0#5, 0#3), (24#5, 0#3), (24#5, 4#3), (26#5, 0#3), (26#5, 4#3), (30#5, 0#3), (31#5, 7#3)]) :
    EmptyCell (8 * op5.toNat + form.toNat) ∧ ¬ PrintedCell (8 * op5.toNat + form.toNat) := by
  unfold EmptyCell PrintedCell
  revert op5 form
  decide

/-- What an arm of the decoder rejects, as numbers of the form and the two fields, is what the lists say of its OP row. -/
def ArmListed (op5 form rd lo : Nat) (unassigned misprinted : Prop) : Prop :=
  (unassigned ↔ UnassignedOpcode (8 * op5 + form) rd) ∧ (misprinted ↔ MisprintedFields (8 * op5 + form) rd lo)

theorem binary_listed {op5 form rd lo : Nat} (hform : form < 8)
    (h : op5 = 1 ∨ (3 ≤ op5 ∧ op5 ≤ 12) ∨ (16 ≤ op5 ∧ op5 ≤ 19)) :
    ArmListed op5 form rd lo False ((form = 0 ∨ form = 2) ∧ lo ≠ 0) := by
  have hmod : (8 * op5 + form) % 8 = form := by omega
  have hdiv : (8 * op5 + form) / 8 = op5 := by omega
  rw [ArmListed, UnassignedOpcode, emptyCell_iff, MisprintedFields, hmod, hdiv]
  refine ⟨iff_of_false not_false (by omega), fun ⟨hprinted, hlo⟩ => ?_, fun hm => ?_⟩
  · exact .inr (.inr (.inr (.inr (.inr ⟨hprinted, h, hlo⟩))))
  · rcases hm with ⟨hop, -⟩ | ⟨hop, -⟩ | ⟨hop, -⟩ | ⟨hop, -⟩ | ⟨hop, -⟩ | ⟨hprinted, -, hlo⟩
    case inr.inr.inr.inr.inr => exact ⟨hprinted, hlo⟩
    all_goals omega

theorem st_listed {form rd lo : Nat} (hform : form < 8) :
    ArmListed 2 form rd lo (form = 2 ∨ form = 4 ∨ form = 5) (form = 0 ∧ lo ≠ 0) := by
  rw [ArmListed, UnassignedOpcode, emptyCell_iff, MisprintedFields]
  constructor <;> omega

theorem jump_listed {form rd lo : Nat} (hform : form < 8) :
    ArmListed 20 form rd lo (2 ≤ form ∨ rd = 13) (form = 0 ∧ rd ≠ 13 ∧ lo ≠ 0) := by
  rw [ArmListed, UnassignedOpcode, emptyCell_iff, MisprintedFields]
  constructor <;> omega

theorem call_listed {form rd lo : Nat} (hform : form < 8) :
    ArmListed 21 form rd lo (2 ≤ form) (form < 2 ∧ ((form = 0 ∧ lo ≠ 0) ∨ rd ≠ 0)) := by
  rw [ArmListed, UnassignedOpcode, emptyCell_iff, MisprintedFields]
  constructor <;> omega

theorem port_listed {op5 form rd lo : Nat} (hform : form < 8) (h : op5 = 22 ∨ op5 = 23) :
    ArmListed op5 form rd lo (form ≠ 0 ∧ form ≠ 6) (form = 0 ∧ lo ≠ 0) := by
  rw [ArmListed, UnassignedOpcode, emptyCell_iff, MisprintedFields]
  rcases h with rfl | rfl <;> constructor <;> omega

theorem oneRegister_listed {form rd lo : Nat} (h : form = 0 ∨ form = 4) : ArmListed 24 form rd lo False (lo ≠ 0) := by
  rw [ArmListed, UnassignedOpcode, emptyCell_iff, MisprintedFields]
  rcases h with rfl | rfl <;> exact ⟨iff_of_false not_false (by omega), by omega⟩

theorem printedZero_listed {op5 form rd lo : Nat} (h : 8 * op5 + form ∈ [0x00, 0xD0, 0xF0, 0xFF]) :
    ArmListed op5 form rd lo False (rd ≠ 0 ∨ lo ≠ 0) := by
  rw [ArmListed, UnassignedOpcode, emptyCell_iff, MisprintedFields]
  generalize 8 * op5 + form = op at *
  simp only [List.mem_cons, List.not_mem_nil, or_false] at h
  rcases h with rfl | rfl | rfl | rfl <;> exact ⟨iff_of_false not_false (by omega), by omega⟩

theorem reti_listed {rd lo : Nat} : ArmListed 26 4 rd lo False (rd ≠ 15 ∨ lo ≠ 0) := by
  rw [ArmListed, UnassignedOpcode, emptyCell_iff, MisprintedFields]
  exact ⟨iff_of_false not_false (by omega), by omega⟩

theorem Rejects.listed {α : Type} {r : FirstWord α} {p q : Prop} {op5 form rd lo : Nat} (h : Rejects r p q)
    (hl : ArmListed op5 form rd lo p q) :
    Rejects r (UnassignedOpcode (8 * op5 + form) rd) (MisprintedFields (8 * op5 + form) rd lo) :=
  h.congr hl.1 hl.2

/-- The two lists, arm by arm of the decoder. -/
theorem decodeFields_rejects (op5 : BitVec 5) (form : BitVec 3) (rd lo : BitVec 4) :
    Rejects (decodeFields op5 form rd lo) (UnassignedOpcode (8 * op5.toNat + form.toNat) rd.toNat)
      (MisprintedFields (8 * op5.toNat + form.toNat) rd.toNat lo.toNat) := by
  have hform := form.isLt
  unfold decodeFields
  split
  · rename_i mk hmk
    have hrow := (binaryOp_isSome_iff op5).mp (by rw [hmk]; rfl)
    exact ((decodeOperand_rejects form lo).map _).listed (binary_listed hform hrow)
  · rename_i hmk
    split
    case h_1 => exact (fixedFields_rejects rd lo 0x0#4 .no).listed (printedZero_listed (by decide))
    case h_2 => exact ((decodeStoreOperand_rejects _ lo).map _).listed (st_listed hform)
    case h_3 => exact (jumpFields_rejects _ rd lo).listed (jump_listed hform)
    case h_4 => exact (callFields_rejects _ rd lo).listed (call_listed hform)
    case h_5 => exact ((decodePort_rejects _ lo).map _).listed (port_listed hform (.inl rfl))
    case h_6 => exact ((decodePort_rejects _ lo).map _).listed (port_listed hform (.inr rfl))
    case h_7 => exact (oneRegister_rejects rd lo .push).listed (oneRegister_listed (.inl rfl))
    case h_8 => exact (oneRegister_rejects rd lo .pop).listed (oneRegister_listed (.inr rfl))
    case h_9 => exact (fixedFields_rejects rd lo 0x0#4 .ret).listed (printedZero_listed (by decide))
    case h_10 => exact (fixedFields_rejects rd lo 0xF#4 .reti).listed reti_listed
    case h_11 => exact (fixedFields_rejects rd lo 0x0#4 .svc).listed (printedZero_listed (by decide))
    case h_12 => exact (fixedFields_rejects rd lo 0x0#4 .halt).listed (printedZero_listed (by decide))
    case h_13 => -- no instruction
      rename_i hst hjump hcall hin hout hno hpush hpop hret hreti hsvc hhalt
      obtain ⟨hempty, hprinted⟩ := emptyCell_of_no_arm op5 form (by rw [hmk]; rfl)
        (by simpa using ⟨hst, hjump, hcall, hin, hout⟩) (by simpa using ⟨hno, hpush, hpop, hret, hreti, hsvc, hhalt⟩)
      exact rejects_unassigned (.inl hempty) fun hm => hprinted (printedCell_of_misprinted hm)

/-- The opcode and the two fields of a first word as numbers. -/
theorem toNat_opcode (w : Word) : 8 * (opField w).toNat + (formField w).toNat = w.toNat / 256 := by
  have h5 : (opField w).toNat = w.toNat / 2048 % 32 := by simp [opField, Nat.shiftRight_eq_div_pow]
  have := w.isLt
  rw [h5, toNat_formField]
  omega

theorem toNat_rdField (w : Word) : (rdField w).toNat = w.toNat / 16 % 16 := by
  simp [rdField, Nat.shiftRight_eq_div_pow]

/-- The two lists, of a first word. -/
theorem decodeFirst_rejects (w : Word) :
    Rejects (decodeFirst w) (UnassignedOpcode (w.toNat / 256) (w.toNat / 16 % 16))
      (MisprintedFields (w.toNat / 256) (w.toNat / 16 % 16) (w.toNat % 16)) := by
  rw [← toNat_opcode, ← toNat_rdField, ← toNat_loField]
  exact decodeFields_rejects _ _ _ _

end Sys2Proof

namespace Sys2Proof.Machine

/-! ### The fetch and the step (30_encoding.md R84, R103) -/

/-- With interrupts disabled, or nothing pending, no request is recognised. -/
theorem recognised_eq_none {s : State} (h : s.flag.e = false ∨ s.irq = 0#10) : s.recognised = none := by
  unfold State.recognised
  rcases h with he | hirq
  · simp [he]
  · have hp : s.pending = [] := by simp [State.pending, State.requested, hirq]
    simp [hp]

/-- With nothing to keep it from the fetch, a step is what the fetch comes to. -/
theorem step_of_fetch_value {s : State} {i : Instr} (hh : s.halted = false) (hi : s.flag.e = false ∨ s.irq = 0#10)
    (hf : fetch s = .value i) : step s = exec i s := by
  simp [step, hh, recognised_eq_none hi, hf]

theorem step_of_fetch_raise {s : State} {e : Exc} (hh : s.halted = false) (hi : s.flag.e = false ∨ s.irq = 0#10)
    (hf : fetch s = .raise e) : step s = takeException e (s.pc + 2#16) s := by
  simp [step, hh, recognised_eq_none hi, hf]

theorem step_of_fetch_fault {s : State} {f : Fault} (hh : s.halted = false) (hi : s.flag.e = false ∨ s.irq = 0#10)
    (hf : fetch s = .fault f) : step s = .fault f := by
  simp [step, hh, recognised_eq_none hi, hf]

theorem step_of_fetch_refused {s : State} {r : Refusal} (hh : s.halted = false) (hi : s.flag.e = false ∨ s.irq = 0#10)
    (hf : fetch s = .refused r) : step s = .refused r := by
  simp [step, hh, recognised_eq_none hi, hf]

/-- A first word that the decoder rejects stops the fetch. -/
theorem fetch_of_error {s : State} {w : Word} {e : DecodeError} (hw : readWord s s.pc = .value w)
    (hd : decodeFirst w = .error e) : fetch s = rejected e w := by
  simp [fetch, hw, hd]

/-- The fetch gives what the first word gives with the words it asks for. -/
theorem fetch_of_yields {s : State} {w : Word} {ws : List Word} {i : Instr} (hw : readWord s s.pc = .value w)
    (hws : ∀ w2, ws = [w2] → readWord s (s.pc + 2#16) = .value w2) (hy : (decodeFirst w).Yields ws i) :
    fetch s = .value i := by
  obtain ⟨n, hn, hy⟩ := hy
  cases n with
  | one j =>
    obtain ⟨-, rfl⟩ := hy
    simp [fetch, hw, hn]
  | two f =>
    obtain ⟨w2, h2, rfl⟩ := hy
    simp [fetch, hw, hn, hws w2 h2]

/-- Settles O4: the list is `decodeFirst_rejects`, and a step that fetches such a word is what `rejected` makes of it. -/
theorem unassignedWordsFault : Obligations.UnassignedWordsFault := by
  rintro w op cond rfl rfl
  constructor
  · rw [(decodeFirst_rejects w).unassigned_iff, UnassignedOpcode, emptyCell_iff]
    omega
  · intro s hh hi hw hd
    exact step_of_fetch_fault hh hi (fetch_of_error hw hd)

/-- Settles O5: the list is `decodeFirst_rejects`, and a step that fetches such a word is what `rejected` makes of it. -/
theorem reservedFieldWordsRefused : Obligations.ReservedFieldWordsRefused := by
  rintro w op rd lo rfl rfl rfl
  constructor
  · exact (decodeFirst_rejects w).misprinted_iff
  · intro s hh hi hw hd
    exact step_of_fetch_refused hh hi (fetch_of_error hw hd)

/-- Settles O6: the words decode to what the first word gives with the words it asks for, which is what the fetch gives. -/
theorem stepRunsTheDecodedInstruction : Obligations.StepRunsTheDecodedInstruction := by
  intro s i w1 ws hh hi hw hws hd
  obtain ⟨taken, rfl, hy⟩ := decodeWords_cons.mp hd
  exact step_of_fetch_value hh hi (fetch_of_yields hw (by simpa using hws) hy)

end Sys2Proof.Machine

/-! Proofs about main memory: what a word written leaves everywhere, reads without a value, accesses at odd addresses, the
ROM's overlay; and the instructions that store or pop as what their access comes to. With them statements of 20_memory.md,
40_nop_load_store.md, 43_jump_call.md and 44_io_stack.md. -/

namespace Sys2Proof.Machine

/-! ### A stored word (20_memory.md R57) -/

/-- RAM after a word is stored: the bytes of other addresses are as before, under an attached ROM too. -/
theorem read_storedWord_other (m : Memory) {a x : Word} (v : Word) (h0 : x ≠ a) (h1 : x ≠ a + 1#16) :
    (storedWord m a v).read? x.toNat = m.read? x.toNat := by
  have h0' : x.toNat ≠ a.toNat := fun h => h0 (BitVec.eq_of_toNat_eq h)
  have h1' : x.toNat ≠ (a + 1#16).toNat := fun h => h1 (BitVec.eq_of_toNat_eq h)
  rw [storedWord, read_write_other _ _ h1', read_write_other _ _ h0']

/-- A state whose memory is that after a word was written to `s` reads the word back, and every other byte as before. -/
theorem reads_of_writeWord {s u t : State} {a v : Word} (hw : writeWord s a v = .value u) (hmem : t.mem = u.mem)
    (hipl : t.iplAttached = s.iplAttached) (hmmu : t.mmu.enabled = s.mmu.enabled) :
    readWord t a = .value v ∧ ∀ x, x ≠ a → x ≠ a + 1#16 →
      t.byteAt? x = s.byteAt? x ∧ Memory.read? t.mem x.toNat = Memory.read? s.mem x.toNat := by
  obtain ⟨-, -, -, hu⟩ := writeWord_eq_value hw
  have hb := byteAt_writeWord hw
  have hr := readWord_writeWord_same hw
  subst hu
  have hbyte (x : Word) : t.byteAt? x = (s.setMem (storedWord s.mem a v)).byteAt? x := by
    simp [State.byteAt?, State.inRom, hmem, hipl]
  refine ⟨(readWord_congr hmem hipl hmmu a).trans hr, fun x h0 h1 => ⟨?_, ?_⟩⟩
  · rw [hbyte, hb, if_neg h1, if_neg h0]
  · rw [hmem, setMem_mem, read_storedWord_other s.mem v h0 h1]

/-- A byte written outside the ROM reads back, and every other byte as before. -/
theorem reads_of_writeByte {s t : State} {a : Word} (b : Byte) (hr : s.inRom a = false)
    (hmem : t.mem = s.mem.write a.toNat b) (hipl : t.iplAttached = s.iplAttached) :
    t.byteAt? a = some b ∧ ∀ x, x ≠ a →
      t.byteAt? x = s.byteAt? x ∧ Memory.read? t.mem x.toNat = Memory.read? s.mem x.toNat := by
  have hb (x : Word) : t.byteAt? x = if x = a then some b else s.byteAt? x := by
    rw [← byteAt_write b hr x]
    simp [State.byteAt?, State.inRom, hmem, hipl]
  refine ⟨by rw [hb, if_pos rfl], fun x hx => ⟨by rw [hb, if_neg hx], ?_⟩⟩
  rw [hmem, read_write_other _ _ fun h => hx (BitVec.eq_of_toNat_eq h)]

/-! ### Instructions as what their access comes to -/

/-- An instruction outside `PRIVILEGED_SET` is the effect its arm guards. -/
theorem exec_of_arm {i : Instr} {s : State} {effect : Result} (harm : exec i s = guarded i s effect)
    (hp : Setting.privileged i = false) : exec i s = effect :=
  harm.trans (guarded_of_unprivileged effect hp)

theorem exec_ld (rd : Reg) (src : Operand) (s : State) : exec (.ld rd src) s = complete s (s.pc + operandSize src)
    ((readOperand s src).bind fun v => .value ((s.writeReg rd v).setPc (s.pc + operandSize src))) :=
  exec_of_arm rfl rfl

theorem exec_cmp (rd : Reg) (src : Operand) (s : State) : exec (.cmp rd src) s = complete s (s.pc + operandSize src)
    ((readOperand s src).bind fun b =>
      .value ((s.setFlagsOf (aluSub (s.readReg rd) b)).setPc (s.pc + operandSize src))) :=
  exec_of_arm rfl rfl

theorem exec_st (rd : Reg) (dst : StoreOperand) (s : State) : exec (.st rd dst) s = complete s (s.pc + storeSize dst)
    ((storeOperand s dst (s.readReg rd)).bind fun t => .value (t.setPc (s.pc + storeSize dst))) :=
  exec_of_arm rfl rfl

theorem exec_call (tgt : Target) (s : State) : exec (.call tgt) s = complete s (s.pc + 4#16)
    ((push s (s.pc + 4#16)).bind fun t => .value (t.setPc (targetEA s tgt))) :=
  exec_of_arm rfl rfl

theorem exec_ret (s : State) : exec .ret s = complete s (s.pc + 2#16)
    ((pop s).bind fun r => .value (r.2.setPc r.1)) :=
  exec_of_arm rfl rfl

theorem exec_reti (s : State) : exec .reti s = complete s (s.pc + 2#16) (trapReturn s) :=
  exec_of_arm rfl rfl

/-- Register D, and E in user mode, are the stack pointer in use; no other number is (44_io_stack.md R194). -/
theorem isCurrentSp_eq_false {s : State} {rd : Reg} (h : rd ≠ .sp) (hu : rd = .usp → s.flag.p = true) :
    isCurrentSp s rd = false := by
  cases rd with
  | sp => exact absurd rfl h
  | usp => simp [isCurrentSp, hu rfl]
  | _ => rfl

theorem exec_push {rd : Reg} {s : State} (h : isCurrentSp s rd = false) : exec (.push rd) s =
    complete s (s.pc + 2#16) ((push s (s.readReg rd)).bind fun t => .value (t.setPc (s.pc + 2#16))) := by
  exact (exec_of_arm rfl rfl).trans (if_neg (by simp [h]))

theorem exec_pop {rd : Reg} {s : State} (h : isCurrentSp s rd = false) : exec (.pop rd) s =
    complete s (s.pc + 2#16) ((pop s).bind fun r => .value ((r.2.writeReg rd r.1).setPc (s.pc + 2#16))) := by
  exact (exec_of_arm rfl rfl).trans (if_neg (by simp [h]))

/-- ST in a word form is a word write at its effective address. -/
theorem storeOperand_word (s : State) {dst : StoreOperand} (v : Word) (h : ∀ rx, dst ≠ .byteIndirect rx) :
    storeOperand s dst v = writeWord s (storeEA s dst) v := by
  cases dst with
  | byteIndirect rx => exact absurd rfl (h rx)
  | _ => rfl

/-! ### Lengths -/

theorem size_ld (rd : Reg) (src : Operand) : (Instr.ld rd src).size = operandSize src := size_operand _ _ _
theorem size_st (rd : Reg) (dst : StoreOperand) : (Instr.st rd dst).size = storeSize dst := size_store _ _ _

/-! ### Instructions that store -/

/-- Settles O20: `storeOperand_word` and `writeWord_value` give the next state, `reads_of_writeWord` its memory. -/
theorem stStoresAWord : Obligations.StStoresAWord := by
  rintro rd dst s a hdst rfl hm ha hr
  have hw := writeWord_value (s.readReg rd) hm (even_iff.mpr ha) hr
  have hx : exec (.st rd dst) s =
      .next ((s.setMem (storedWord s.mem (storeEA s dst) (s.readReg rd))).setPc (s.pc + storeSize dst)) := by
    rw [exec_st, storeOperand_word s _ hdst, hw, bind_value, complete_value]
  obtain ⟨hread, hframe⟩ := reads_of_writeWord hw rfl rfl rfl
  refine ⟨_, hx, hread, hframe, ?_⟩
  rw [size_st]
  rfl

/-- Settles O21: `writeByte_value` gives the next state, `reads_of_writeByte` its memory. -/
theorem stStoresAByte : Obligations.StStoresAByte := by
  rintro rd rx s a rfl hm hr
  have hw := writeByte_value ((s.readReg rd).setWidth 8) hm hr
  have hx : exec (.st rd (.byteIndirect rx)) s = .next
      ((s.setMem (s.mem.write (s.readReg rx).toNat ((s.readReg rd).setWidth 8))).setPc (s.pc + 2#16)) := by
    rw [exec_st, storeOperand, hw, bind_value, complete_value, storeSize]
  obtain ⟨hread, hframe⟩ := reads_of_writeByte ((s.readReg rd).setWidth 8) hr (t := (s.setMem _).setPc _) rfl rfl
  exact ⟨_, hx, hread, hframe, rfl⟩

theorem setSp_setMem (s : State) (m : Memory) (v : Word) : (s.setMem m).setSp v = (s.setSp v).setMem m := by
  cases hp : s.flag.p with
  | true => rw [setSp_privileged _ _ hp, setSp_privileged _ _ (by exact hp)]; rfl
  | false => rw [setSp_user _ _ hp, setSp_user _ _ (by exact hp)]; rfl

/-- What CALL and PUSH share: the word below the stack pointer in use, and the pointer moved there. -/
theorem push_effect {s : State} {sp : Word} (v pc : Word) (hsp : sp = s.readReg .sp - 2#16) (hm : s.mmu.enabled = false)
    (ha : sp.toNat % 2 = 0) (hr : s.inRom sp = false) :
    ∃ u, push s v = .value u ∧ readWord (u.setPc pc) sp = .value v ∧
      (∀ x, x ≠ sp → x ≠ sp + 1#16 → (u.setPc pc).byteAt? x = s.byteAt? x ∧
        Memory.read? (u.setPc pc).mem x.toNat = Memory.read? s.mem x.toNat) ∧
      u.setPc pc = { s.writeReg .sp sp with mem := (u.setPc pc).mem, pc := pc } := by
  subst hsp
  have hodd : isOdd s.sp = false := (isOdd_sub_two s.sp).symm.trans (even_iff.mpr ha)
  have hw := writeWord_value v hm (even_iff.mpr ha) hr
  have hu : (s.setMem (storedWord s.mem (s.sp - 2#16) v)).setSp (s.sp - 2#16) =
      (s.setSp (s.sp - 2#16)).setMem (storedWord s.mem (s.sp - 2#16) v) := setSp_setMem _ _ _
  obtain ⟨hread, hframe⟩ := reads_of_writeWord hw
    (t := ((s.setSp (s.sp - 2#16)).setMem (storedWord s.mem (s.sp - 2#16) v)).setPc pc) rfl (by simp) (by simp)
  exact ⟨_, (push_value v hm hodd hr).trans (congrArg _ hu), hread, hframe, rfl⟩

/-- Settles O34: `push_effect` of the address after the CALL. -/
theorem callPushesTheReturnAddress : Obligations.CallPushesTheReturnAddress := by
  intro tgt s sp hsp hm ha hr
  obtain ⟨u, hu, hread, hframe, hstate⟩ := push_effect (s.pc + 4#16) (targetEA s tgt) hsp hm ha hr
  exact ⟨_, by rw [exec_call, hu, bind_value, complete_value], hread, hframe, hstate⟩

/-- Settles O36: `push_effect` of the register. -/
theorem pushStoresBelow : Obligations.PushStoresBelow := by
  intro rd s sp hrd husp hsp hm ha hr
  obtain ⟨u, hu, hread, hframe, hstate⟩ := push_effect (s.readReg rd) (s.pc + 2#16) hsp hm ha hr
  exact ⟨_, by rw [exec_push (isCurrentSp_eq_false hrd husp), hu, bind_value, complete_value], hread, hframe, hstate⟩

/-! ### Instructions that load -/

/-- Settles O19: the operand written to Rd by the definition of LD, which leaves the flags alone. -/
theorem ldLoadsItsOperand : Obligations.LdLoadsItsOperand := by
  intro rd src s v hv
  rw [exec_ld, hv, bind_value, complete_value, size_ld]
  rfl

/-- Settles O35: `pop_value`. -/
theorem retPopsThePc : Obligations.RetPopsThePc := by
  intro s v hv
  rw [exec_ret, pop_value hv, bind_value, complete_value]
  rfl

/-- Settles O37: `pop_value`, the pointer moved before Rd is written. -/
theorem popLoadsAndMovesUp : Obligations.PopLoadsAndMovesUp := by
  intro rd s v hrd husp hv
  rw [exec_pop (isCurrentSp_eq_false hrd husp), pop_value hv, bind_value, complete_value]
  rfl

/-- Settles O50: both words read at the stack pointer in use at the start, FLAG written by `Flag.write`. -/
theorem retiPopsFlagAndPc : Obligations.RetiPopsFlagAndPc := by
  rintro s f p sp rfl hf hp
  rw [exec_reti, trapReturn, show readWord s s.sp = .value f from hf, bind_value,
    show readWord s (s.sp + 2#16) = .value p from hp, bind_value, complete_value]
  rfl

/-! ### Reads without a value, at odd addresses, of the ROM -/

/-- A byte that memory does not have stops a read (20_memory.md R56). -/
theorem readByte_unwritten {s : State} {a : Word} (hm : s.mmu.enabled = false) (hb : s.byteAt? a = none) :
    readByte s a = .fault (.unwrittenMemory a) := by
  simp [readByte, hm, hb]

/-- A word read is stopped by its first byte without a value. -/
theorem readWord_unwritten {s : State} {a x : Word} (hm : s.mmu.enabled = false) (ha : isOdd a = false)
    (h : (s.byteAt? a = none ∧ x = a) ∨ ((s.byteAt? a).isSome = true ∧ s.byteAt? (a + 1#16) = none ∧ x = a + 1#16)) :
    readWord s a = .fault (.unwrittenMemory x) := by
  rcases h with ⟨hb, rfl⟩ | ⟨h0, h1, rfl⟩
  · simp [readWord, hm, ha, readByte_unwritten hm hb]
  · obtain ⟨b0, hb0⟩ := Option.isSome_iff_exists.mp h0
    simp [readWord, hm, ha, readByte_value hm hb0, readByte_unwritten hm h1]

/-- Settles O13: a word written by `writeWord_value`, `byteAt_writeWord` and `reads_of_writeWord`, a word read by
`readWord_value`, a byte without a value by `readWord_unwritten`, which the instructions and the fetch carry on. -/
theorem wordWriteReadsBack : Obligations.WordWriteReadsBack := by
  intro s a hm
  refine ⟨fun v ha hr => ?_, fun b => readByte_value hm, readByte_unwritten hm,
    fun b0 b1 ha => readWord_value hm (even_iff.mpr ha), fun x ha hx => ?_⟩
  · have heven := even_iff.mpr ha
    have hw := writeWord_value v hm heven hr
    have hb := byteAt_writeWord hw
    obtain ⟨hread, hframe⟩ := reads_of_writeWord hw rfl rfl rfl
    refine ⟨_, hw, ?_, ?_, hread, hframe, rfl⟩
    · rw [hb, if_neg (succ_ne_of_even heven).symm, if_pos rfl]
      rfl
    · rw [hb, if_pos rfl]
      rfl
  · have hread := readWord_unwritten hm (even_iff.mpr ha) hx
    refine ⟨hread, fun rd src hsrc => ?_, fun hsp => ⟨?_, ?_⟩, fun hpc hh hi => ?_⟩
    · rw [exec_ld, hsrc, hread]
      rfl
    · have hsp' : s.sp = a := hsp
      rw [exec_ret, pop, hsp', hread]
      rfl
    · have hsp' : s.sp = a := hsp
      rw [exec_reti, trapReturn, hsp', hread]
      rfl
    · have hf : fetch s = .fault (.unwrittenMemory x) := by rw [fetch, hpc, hread, bind_fault]
      exact step_of_fetch_fault hh hi hf

/-- A word write at an odd address raises (20_memory.md R61), in the ROM too. -/
theorem writeWord_odd {s : State} {a : Word} (v : Word) (hm : s.mmu.enabled = false) (ha : isOdd a = true) :
    writeWord s a v = .raise (.memoryProtection .badAddr a) := by
  simp [writeWord, hm, ha]

theorem push_odd {s : State} {a : Word} (v : Word) (hm : s.mmu.enabled = false) (ha : isOdd a = true)
    (hsp : s.sp - 2#16 = a) : push s v = .raise (.memoryProtection .badAddr a) := by
  rw [push, hsp, writeWord_odd v hm ha, bind_raise]

theorem pop_odd {s : State} {a : Word} (hm : s.mmu.enabled = false) (ha : isOdd a = true) (hsp : s.sp = a) :
    pop s = .raise (.memoryProtection .badAddr a) := by
  rw [pop, hsp, readWord_odd hm ha, bind_raise]

/-- The instructions that write a result and the flags share one template (41_arithmetic_logic.md R130, 42_shift.md
R150), and run in every mode. -/
theorem exec_flagSetting {rd : Reg} {src : Operand} {i : Instr} (h : i ∈ [.add rd src, .sub rd src, .and rd src,
      .or rd src, .xor rd src, .adds rd src, .mul rd src, .div rd src, .mod rd src, .shla rd src, .shll rd src,
      .shra rd src, .shrl rd src]) : ∃ f, ∀ s, exec i s = flagSetting f rd src s := by
  have arm {j : Instr} {f : Word → Word → Access AluOut} (hp : Setting.privileged j = false)
      (harm : ∀ s, exec j s = guarded j s (flagSetting f rd src s)) : ∃ f, ∀ s, exec j s = flagSetting f rd src s :=
    ⟨f, fun s => exec_of_arm (harm s) hp⟩
  revert i
  simp only [List.forall_mem_cons, List.not_mem_nil, false_imp_iff, implies_true, and_true]
  exact ⟨arm rfl fun _ => rfl, arm rfl fun _ => rfl, arm rfl fun _ => rfl, arm rfl fun _ => rfl, arm rfl fun _ => rfl,
    arm rfl fun _ => rfl, arm rfl fun _ => rfl, arm rfl fun _ => rfl, arm rfl fun _ => rfl, arm rfl fun _ => rfl,
    arm rfl fun _ => rfl, arm rfl fun _ => rfl, arm rfl fun _ => rfl⟩

/-- The template takes the exception that its operand raises. -/
theorem flagSetting_raise {f : Word → Word → Access AluOut} {rd : Reg} {src : Operand} {s : State} {e : Exc}
    (hrd : rd ≠ .flag) (h : readOperand s src = .raise e) :
    flagSetting f rd src s = takeException e (s.pc + operandSize src) s := by
  cases rd with
  | flag => exact absurd rfl hrd
  | _ => simp [flagSetting, binaryOperation, h]

/-- With SSP odd a trap entry stops at its first push (60_exceptions.md R228). -/
theorem trapEntry_odd {s : State} (vec saved : Word) (hm : s.mmu.enabled = false) (ha : isOdd s.ssp = true) :
    trapEntry vec saved s = .fault .insideTrapEntry := by
  have hodd : isOdd (s.ssp - 2#16) = true := (isOdd_sub_two s.ssp).trans ha
  have hpush : push (s.setFlag s.flag.enterTrap) saved = .raise (.memoryProtection .badAddr (s.ssp - 2#16)) :=
    push_odd saved hm hodd rfl
  rw [trapEntry, trapBody, hpush]
  rfl

/-- Settles O14: each access raises at an odd address (`readWord_odd`, `writeWord_odd`, `push_odd`, `pop_odd`), each
instruction takes what its access raises, and the exception saves the PC of the instruction whatever its length. -/
theorem oddWordAccessRaises : Obligations.OddWordAccessRaises := by
  rintro s a entry rfl
  have hentry (next : Word) : takeException (.memoryProtection .badAddr a) next s =
      trapEntry 0xFFF6#16 s.pc { s with mmu := { s.mmu with cause := 0x0002#16, violAddr := a } } := rfl
  refine ⟨hentry, fun hm hssp vec saved => trapEntry_odd vec saved hm (by simpa [isOdd] using hssp), fun hm ha => ?_⟩
  have hodd : isOdd a = true := by simpa [isOdd] using ha
  refine ⟨readWord_odd hm hodd, fun v => writeWord_odd v hm hodd, fun hpc hh hi => ?_, fun rd src hsrc => ?_,
    fun rd dst hdst hea => ?_, fun hsp => ⟨fun tgt => ?_, fun rd hrd husp => ?_⟩,
    fun hsp => ⟨?_, ?_, fun rd hrd husp => ?_⟩⟩
  · have hf : fetch s = .raise (.memoryProtection .badAddr a) := by rw [fetch, hpc, readWord_odd hm hodd, bind_raise]
    rw [step_of_fetch_raise hh hi hf, hentry]
  · have hraise : readOperand s src = .raise (.memoryProtection .badAddr a) := hsrc.trans (readWord_odd hm hodd)
    refine ⟨by rw [exec_ld, hraise, bind_raise, complete_raise, hentry],
      by rw [exec_cmp, hraise, bind_raise, complete_raise, hentry], fun hrd i hi => ?_⟩
    obtain ⟨f, harm⟩ := exec_flagSetting hi
    rw [harm, flagSetting_raise hrd hraise, hentry]
  · rw [exec_st, storeOperand_word s _ hdst, hea, writeWord_odd _ hm hodd, bind_raise, complete_raise, hentry]
  · rw [exec_call, push_odd _ hm hodd hsp, bind_raise, complete_raise, hentry]
  · rw [exec_push (isCurrentSp_eq_false hrd husp), push_odd _ hm hodd hsp, bind_raise, complete_raise, hentry]
  · rw [exec_ret, pop_odd hm hodd hsp, bind_raise, complete_raise, hentry]
  · have hsp' : s.sp = a := hsp
    rw [exec_reti, trapReturn, hsp', readWord_odd hm hodd, bind_raise, complete_raise, hentry]
  · rw [exec_pop (isCurrentSp_eq_false hrd husp), pop_odd hm hodd hsp, bind_raise, complete_raise, hentry]

/-- No store reaches the attached ROM (20_memory.md R53). -/
theorem writeByte_rom {s : State} {a : Word} (b : Byte) (hm : s.mmu.enabled = false) (hr : s.inRom a = true) :
    writeByte s a b = .refused (.storeIntoRom a) := by
  simp [writeByte, hm, hr]

theorem writeWord_rom {s : State} {a : Word} (v : Word) (hm : s.mmu.enabled = false) (ha : isOdd a = false)
    (hr : s.inRom a = true) : writeWord s a v = .refused (.storeIntoRom a) := by
  simp [writeWord, hm, ha, writeByte_rom _ hm hr]

theorem push_rom {s : State} {a : Word} (v : Word) (hm : s.mmu.enabled = false) (ha : isOdd a = false)
    (hr : s.inRom a = true) (hsp : s.sp - 2#16 = a) : push s v = .refused (.storeIntoRom a) := by
  rw [push, hsp, writeWord_rom v hm ha hr, bind_refused]

/-- A trap entry is refused when either word of its frame is in the ROM: the first push is, or the second after the
first. -/
theorem trapEntry_rom {s : State} {a : Word} (vec saved : Word) (hm : s.mmu.enabled = false) (ha : isOdd a = false)
    (hr : s.inRom a = true)
    (h : s.ssp - 2#16 = a ∨ (s.inRom (s.ssp - 2#16) = false ∧ s.ssp - 2#16 - 2#16 = a)) :
    trapEntry vec saved s = .refused (.storeIntoRom a) := by
  rw [trapEntry, trapBody]
  rcases h with h | ⟨hr1, h⟩
  · have hpush : push (s.setFlag s.flag.enterTrap) saved = .refused (.storeIntoRom a) := push_rom saved hm ha hr h
    rw [hpush]
    rfl
  · have heven : isOdd s.ssp = false := by rw [← isOdd_sub_two, ← isOdd_sub_two, h, ha]
    have hfirst := push_value (s := s.setFlag s.flag.enterTrap) saved hm heven hr1
    rw [hfirst, bind_value, push_rom s.flag.toWord (by simpa using hm) ha (by simpa using hr) (by rw [setSp_sp]; exact h)]
    rfl

/-- Settles O15: the ROM's bytes by `byteAt_of_attached`, the stores by `writeByte_rom` and `writeWord_rom` and the
instructions that carry their refusal on, the RAM by `reads_of_writeByte`. -/
theorem iplRomOverlay : Obligations.IplRomOverlay := by
  intro s a
  refine ⟨fun hipl ha => ⟨byteAt_of_attached hipl ha, fun hm => ?_⟩, fun h => ?_⟩
  · have hr : s.inRom a = true := by simp [State.inRom, hipl, ha]
    refine ⟨fun b => writeByte_rom b hm hr, fun rd rx hrx => ?_, fun hmod => ?_⟩
    · rw [exec_st, storeOperand, hrx, writeByte_rom _ hm hr]
      rfl
    · have heven := even_iff.mpr hmod
      refine ⟨fun v => writeWord_rom v hm heven hr, fun rd dst hdst hea => ?_,
        fun hsp => ⟨fun tgt => ?_, fun rd hrd husp => ?_⟩, fun hssp vec saved => ?_⟩
      · rw [exec_st, storeOperand_word s _ hdst, hea, writeWord_rom _ hm heven hr]
        rfl
      · rw [exec_call, push_rom _ hm heven hr hsp]
        rfl
      · rw [exec_push (isCurrentSp_eq_false hrd husp), push_rom _ hm heven hr hsp]
        rfl
      · have h4 : s.ssp - 4#16 = s.ssp - 2#16 - 2#16 := by bv_omega
        rw [h4] at hssp
        exact trapEntry_rom vec saved hm heven hr hssp
  · have hr : s.inRom a = false := by
      rcases h with h | h
      · simp [State.inRom, h]
      · simp [State.inRom, h]
    refine ⟨by simp [State.byteAt?, hr], fun hm b => ?_⟩
    obtain ⟨hread, hframe⟩ := reads_of_writeByte b hr (t := s.setMem _) rfl rfl
    exact ⟨_, writeByte_value b hm hr, hread, hframe, rfl⟩

end Sys2Proof.Machine

/-! Proofs about placing an instruction for the next step, about interrupt requests, and about the reset state; with them
statements of 60_exceptions.md and 70_reset_and_hazards.md. -/

namespace Sys2Proof.Machine

/-! ### Placing an instruction (70_reset_and_hazards.md R271) -/

theorem isOdd_evenAddress (a : Word) : isOdd (evenAddress a) = false := by
  have hbit : (evenAddress a).getLsbD 0 = false := by simp [evenAddress]
  rw [isOdd, decide_eq_false_iff_not]
  rw [BitVec.getLsbD, Nat.testBit_zero, decide_eq_false_iff_not] at hbit
  exact hbit

/-- Four bytes placed are two words stored. -/
theorem placeWords_eq (m : Memory) (a : Word) (ws : Word × Word) :
    placeWords m a ws = storedWord (storedWord m a ws.1) (a + 2#16) ws.2 := by
  have h3 : a + 2#16 + 1#16 = a + 3#16 := by bv_omega
  rw [storedWord, storedWord, h3]
  rfl

/-- The ROM, detached if it covers the place, shows at neither word of it. -/
theorem inRom_placeInstruction (s : State) (nbits w : Nat) :
    (s.placeInstruction nbits w).inRom (evenAddress s.pc) = false ∧
      (s.placeInstruction nbits w).inRom (evenAddress s.pc + 2#16) = false := by
  cases hr : s.romIn (evenAddress s.pc) with
  | true => simp [State.placeInstruction, State.inRom, hr]
  | false =>
    simp only [State.romIn, Bool.or_eq_false_iff] at hr
    obtain ⟨⟨⟨h0, -⟩, h2⟩, -⟩ := hr
    have hle (a : Word) (h : s.inRom a = false) : (s.placeInstruction nbits w).inRom a = false := by
      simp only [State.inRom, Bool.and_eq_false_iff] at h ⊢
      exact h.imp_left fun h => by simp [State.placeInstruction, h]
    exact ⟨hle _ h0, hle _ h2⟩

/-- The two words placed are read at the PC and after it. -/
theorem readWord_placeInstruction (s : State) (nbits w : Nat) :
    readWord (s.placeInstruction nbits w) (evenAddress s.pc) = .value (tableWords nbits w).1 ∧
      readWord (s.placeInstruction nbits w) (evenAddress s.pc + 2#16) = .value (tableWords nbits w).2 := by
  obtain ⟨hr0, hr2⟩ := inRom_placeInstruction s nbits w
  have he0 := isOdd_evenAddress s.pc
  have he2 := (isOdd_add_two (evenAddress s.pc)).trans he0
  have hne : evenAddress s.pc ≠ evenAddress s.pc + 2#16 := by bv_omega
  have hw0 := writeWord_value (s := (s.placeInstruction nbits w).setMem s.mem) (tableWords nbits w).1 rfl he0 hr0
  have hw2 := writeWord_value (s := (s.placeInstruction nbits w).setMem
    (storedWord s.mem (evenAddress s.pc) (tableWords nbits w).1)) (tableWords nbits w).2 rfl he2 hr2
  have hsame (a : Word) : readWord (s.placeInstruction nbits w) a = readWord ((s.placeInstruction nbits w).setMem
      (storedWord (storedWord s.mem (evenAddress s.pc) (tableWords nbits w).1) (evenAddress s.pc + 2#16)
        (tableWords nbits w).2)) a := by
    apply readWord_congr
    · exact placeWords_eq s.mem (evenAddress s.pc) (tableWords nbits w)
    · rfl
    · rfl
  exact ⟨(hsame _).trans (readWord_writeWord_other hw2 hne (readWord_writeWord_same hw0)),
    (hsame _).trans (readWord_writeWord_same hw2)⟩

/-- What the decoder reads from the table's bits is given by the first of their two words, with the second if it takes
one. -/
theorem decodeTableWord_yields {nbits w : Nat} {i : Instr} (h : decodeTableWord nbits w = some i) :
    ∃ taken, (decodeFirst (tableWords nbits w).1).Yields taken i ∧ ∀ w2, taken = [w2] → w2 = (tableWords nbits w).2 := by
  have hwords : wordsOfBytes (bytesOfWord (tableWords nbits w).1 ++ bytesOfWord (tableWords nbits w).2) =
      [(tableWords nbits w).1, (tableWords nbits w).2] := by simp [wordsOfBytes, bytesOfWord]
  simp only [decodeTableWord, decode, hwords] at h
  split at h
  · rename_i j rest hd
    cases h
    obtain ⟨taken, htaken, hy⟩ := decodeWords_cons.mp hd
    refine ⟨taken, hy, ?_⟩
    rintro w2 rfl
    exact (List.cons.inj htaken).1.symm
  · cases h

/-- Settles O7: the placed words are read back (`readWord_placeInstruction`), and nothing keeps the next step from them. -/
theorem placedInstructionRunsNext : Obligations.PlacedInstructionRunsNext := by
  intro s w i h
  obtain ⟨taken, hy, htaken⟩ := decodeTableWord_yields h
  obtain ⟨h0, h2⟩ := readWord_placeInstruction s 32 w
  have hirq : (s.withFetchWord 32 w).flag.e = false ∨ (s.withFetchWord 32 w).irq = 0#10 := by
    cases he : s.flag.e with
    | true => exact .inr (by simp [State.withFetchWord, State.placeInstruction, he])
    | false => exact .inl he
  exact step_of_fetch_value rfl hirq (fetch_of_yields h0 (fun w2 hw2 => htaken w2 hw2 ▸ h2) hy)

/-! ### Interrupt requests (60_exceptions.md R216, R217) -/

/-- A request cleared: its own bit and no other. -/
theorem getLsbD_clearRequest (irq : BitVec 10) (k : IntSource) (j : Nat) :
    (clearRequest irq k).getLsbD j = (irq.getLsbD j && decide (j ≠ k.index)) := by
  have hk : k.index < 10 := by cases k <;> decide
  simp only [clearRequest, BitVec.getLsbD_and, BitVec.getLsbD_not, BitVec.getLsbD_shiftLeft, BitVec.getLsbD_one]
  by_cases hj : j < 10
  · by_cases hjk : j = k.index
    · simp [hjk, hk]
    · have : ¬ (¬ j < k.index ∧ j - k.index = 0) := by omega
      simp [hj, hjk]
      omega
  · simp [BitVec.getLsbD_of_ge irq j (by omega)]

/-- A request raised: its own bit and no other. -/
theorem getLsbD_setRequest (irq : BitVec 10) (k : IntSource) (j : Nat) :
    (setRequest irq k).getLsbD j = (irq.getLsbD j || decide (j = k.index)) := by
  have hk : k.index < 10 := by cases k <;> decide
  simp only [setRequest, BitVec.getLsbD_or, BitVec.getLsbD_shiftLeft, BitVec.getLsbD_one]
  by_cases hjk : j = k.index
  · simp [hjk, hk]
  · simp [hjk]
    omega

/-- The sources before one in the order of the vectors are those of a smaller index. -/
theorem all_split (k : IntSource) : ∃ before after, IntSource.all = before ++ k :: after ∧
    ∀ j ∈ before, j.index < k.index := by
  refine ⟨IntSource.all.take k.index, IntSource.all.drop (k.index + 1), ?_⟩
  cases k <;> decide

/-- With E = 1 the lowest pending request is recognised. -/
theorem recognised_of_lowest {s : State} {k : IntSource} (he : s.flag.e = true) (hk : s.requested k = true)
    (hlow : ∀ j : IntSource, j.index < k.index → s.requested j = false) : s.recognised = some k := by
  obtain ⟨before, after, hall, hbefore⟩ := all_split k
  have hnone : before.filter s.requested = [] := by
    rw [List.filter_eq_nil_iff]
    intro j hj
    rw [hlow j (hbefore j hj)]
    exact Bool.false_ne_true
  have hpending : s.pending = k :: after.filter s.requested := by
    rw [State.pending, hall, List.filter_append, hnone, List.filter_cons_of_pos hk, List.nil_append]
  simp only [State.recognised, he, if_true, hpending, Setting.intPriority]

/-- Settles O8: `recognised_of_lowest`, and the cleared request by `getLsbD_clearRequest`. -/
theorem lowestPendingInterruptTaken : Obligations.LowestPendingInterruptTaken := by
  intro s k hh he hk hlow
  refine ⟨clearRequest s.irq k, getLsbD_clearRequest s.irq k, ?_⟩
  have hvec : k.vector = 0xFFE0#16 + 2#16 * BitVec.ofNat 16 k.index := by cases k <;> rfl
  have hrec : s.recognised = some k := recognised_of_lowest he hk fun j hj => hlow j.index hj
  have hstep : step s = takeInterrupt k s.choseInterrupt := by simp [step, hh, hrec]
  rw [hstep, ← hvec]
  rfl

/-! ### Reset (70_reset_and_hazards.md R270) -/

/-- Settles O53: the values of `State.reset`, of which a reset during a run keeps all but RN4020-RAM and the model's own
fields. -/
theorem resetState : Obligations.ResetState := by
  intro s r hr
  have key : r.pc = Setting.resetPc ∧ r.flag = Flag.ofWord Setting.resetFlag ∧ r.halted = false ∧ r.irq = 0#10 ∧
      r.mmu.enabled = false ∧ (∃ x, r.io = { Io.reset with rn4020Ram := x }) ∧ r.mem = [] := by
    rcases hr with rfl | rfl
    · exact ⟨rfl, rfl, rfl, rfl, rfl, ⟨_, rfl⟩, rfl⟩
    · exact ⟨rfl, rfl, rfl, rfl, rfl, ⟨_, rfl⟩, rfl⟩
  obtain ⟨hpc, hflag, hhalted, hirq, hmmu, ⟨x, hio⟩, hmem⟩ := key
  refine ⟨hpc, ?_, hhalted, hirq, hmmu, fun k => ?_, ?_, ?_, fun a => ?_, fun a ha => ?_⟩
  · rw [hflag]
    decide
  · rw [hio]
    cases k <;> rfl
  · rw [hio]
    rfl
  · rw [hio]
    rfl
  · rw [hmem, read_nil]
  · have hrom : r.inRom a = false := by simp [State.inRom, ha]
    simp [State.byteAt?, hrom, hmem]

/-- Settles O54: the empty memory is canonical. -/
theorem invAtReset : Obligations.InvAtReset := ⟨rfl, rfl⟩

end Sys2Proof.Machine

/-! Proofs about arithmetic, logic, shifts and the jumps after a comparison: the one template's next state, and what each
operation computes; with them statements of 41_arithmetic_logic.md, 42_shift.md and 43_jump_call.md. -/

namespace Sys2Proof.Machine

/-! ### The template (41_arithmetic_logic.md R130 to R132) -/

theorem signOf_eq_msb (r : Word) : signOf r = r.msb := (BitVec.msb_eq_getLsbD_last r).symm

/-- FLAG after an outcome in a state that has taken `n` free values: S and Z from the result, V and C from the outcome or
free. -/
def flagAfter (f : Flag) (n : Nat) (o : AluOut) : Flag :=
  { f with
    v := o.v.getD (Config.freeBit n)
    c := o.c.getD (Config.freeBit (n + 1))
    s := o.result.msb
    z := decide (o.result = 0#16) }

theorem setFlagsOf_eq (s : State) (o : AluOut) :
    s.setFlagsOf o = { s with flag := flagAfter s.flag s.draws o, draws := s.draws + o.drawsTaken } := by
  unfold flagAfter
  rw [← signOf_eq_msb]
  rfl

/-- The next state of an instruction of the template whose operand and outcome are values. -/
theorem exec_of_flagSetting {i : Instr} {f : Word → Word → Access AluOut} {rd : Reg} {src : Operand} {s : State}
    {b : Word} {o : AluOut} (harm : exec i s = guarded i s (flagSetting f rd src s)) (hp : Setting.privileged i = false)
    (hsize : i.size = operandSize src) (hrd : rd ≠ .flag) (hb : readOperand s src = .value b)
    (hf : f (s.readReg rd) b = .value o) :
    exec i s = .next { s.writeReg rd o.result with
      flag := flagAfter s.flag s.draws o
      pc := s.pc + i.size
      draws := (s.writeReg rd o.result).draws + o.drawsTaken } := by
  rw [exec_of_arm harm hp, flagSetting_value hrd hb hf, setFlagsOf_eq, writeReg_flag_of_ne s _ hrd, writeReg_draws, hsize]
  rfl

/-- The same for an outcome that draws V, and C too unless it is given. -/
theorem exec_of_drawn {i : Instr} {f : Word → Word → Access AluOut} {rd : Reg} {src : Operand} {s : State} {b r : Word}
    {v c : Bool} {oc : Option Bool} (harm : exec i s = guarded i s (flagSetting f rd src s))
    (hp : Setting.privileged i = false) (hsize : i.size = operandSize src) (hrd : rd ≠ .flag)
    (hb : readOperand s src = .value b) (hf : f (s.readReg rd) b = .value { result := r, v := none, c := oc })
    (hv : v = Config.freeBit s.draws) (hc : c = oc.getD (Config.freeBit (s.draws + 1))) :
    exec i s = .next { s.writeReg rd r with
      flag := { s.flag with v := v, c := c, s := r.msb, z := decide (r = 0#16) }
      pc := s.pc + i.size
      draws := s.draws + 2 } := by
  rw [exec_of_flagSetting harm hp hsize hrd hb hf, writeReg_draws, hv, hc]
  rfl

/-! ### Overflow, carry and borrow (41_arithmetic_logic.md R134, R135) -/

/-- Bit 15 is the sign. -/
theorem getLsbD_fifteen (a : Word) : a.getLsbD 15 = decide (a.toInt < 0) := by
  rw [← BitVec.msb_eq_toInt, BitVec.msb_eq_getLsbD_last]

/-- The signed value of a sum or a difference is that of the signed values, unless that is out of range. -/
theorem toInt_add_cases (a b : Word) : (a + b).toInt = a.toInt + b.toInt ∨ (a + b).toInt = a.toInt + b.toInt - 65536 ∨
    (a + b).toInt = a.toInt + b.toInt + 65536 := by
  have ha := a.isLt
  have hb := b.isLt
  simp only [BitVec.toInt_eq_toNat_cond, BitVec.toNat_add]
  omega

theorem toInt_sub_cases (a b : Word) : (a - b).toInt = a.toInt - b.toInt ∨ (a - b).toInt = a.toInt - b.toInt - 65536 ∨
    (a - b).toInt = a.toInt - b.toInt + 65536 := by
  have ha := a.isLt
  have hb := b.isLt
  simp only [BitVec.toInt_eq_toNat_cond, BitVec.toNat_sub]
  omega

/-- The range of signed values. -/
theorem toInt_range (a : Word) : -32768 ≤ a.toInt ∧ a.toInt < 32768 :=
  ⟨BitVec.le_toInt a, BitVec.toInt_lt⟩

/-- Signed overflow of a sum is that the signed sum is not the sum of the signed values. -/
theorem addOverflow_eq (a b : Word) : addOverflow a b = decide ((a + b).toInt ≠ a.toInt + b.toInt) := by
  have h := toInt_add_cases a b
  have hr := toInt_range (a + b)
  have ha := toInt_range a
  have hb := toInt_range b
  rw [Bool.eq_iff_iff]
  simp only [addOverflow, getLsbD_fifteen, Bool.and_eq_true, beq_iff_eq, bne_iff_ne, ne_eq, decide_eq_decide,
    decide_eq_true_eq]
  omega

theorem subOverflow_eq (a b : Word) : subOverflow a b = decide ((a - b).toInt ≠ a.toInt - b.toInt) := by
  have h := toInt_sub_cases a b
  have hr := toInt_range (a - b)
  have ha := toInt_range a
  have hb := toInt_range b
  rw [Bool.eq_iff_iff]
  simp only [subOverflow, getLsbD_fifteen, Bool.and_eq_true, bne_iff_ne, ne_eq, decide_eq_decide, decide_eq_true_eq]
  omega

/-- Settles O22: the template with `aluAdd`, its overflow by `addOverflow_eq`. -/
theorem addResultAndFlags : Obligations.AddResultAndFlags := by
  rintro rd src s a b hrd rfl hb
  rw [exec_of_flagSetting (i := .add rd src) rfl rfl (size_operand _ _ _) hrd hb rfl, ← addOverflow_eq]
  rfl

/-- Settles O23: the template with `aluSub`, its overflow by `subOverflow_eq`. -/
theorem subResultAndFlags : Obligations.SubResultAndFlags := by
  rintro rd src s a b hrd rfl hb
  rw [exec_of_flagSetting (i := .sub rd src) rfl rfl (size_operand _ _ _) hrd hb rfl, ← subOverflow_eq]
  rfl

/-- Settles O24: CMP computes what SUB does and skips the write of Rd. -/
theorem cmpIsSubWithoutTheWrite : Obligations.CmpIsSubWithoutTheWrite := by
  rintro rd src s a b rfl hb
  refine ⟨_, rfl, ?_, fun hrd => ⟨_, subResultAndFlags rd src s _ b hrd rfl hb, rfl⟩⟩
  rw [exec_cmp, hb, bind_value, complete_value, setFlagsOf_eq, ← subOverflow_eq,
    show (Instr.cmp rd src).size = operandSize src from size_operand _ _ _]
  rfl

/-- Settles O25: the template with V and C drawn. -/
theorem bitwiseResultsAndFlags : Obligations.BitwiseResultsAndFlags := by
  rintro rd src s a b v c hrd rfl hb hv hc
  exact ⟨exec_of_drawn rfl rfl (size_operand _ _ _) hrd hb rfl hv hc,
    exec_of_drawn rfl rfl (size_operand _ _ _) hrd hb rfl hv hc,
    exec_of_drawn rfl rfl (size_operand _ _ _) hrd hb rfl hv hc⟩

/-- Settles O26: the template with V and C drawn, the results computed with numbers being those computed with words. -/
theorem addsAndMulResults : Obligations.AddsAndMulResults := by
  rintro rd src s a b v c hrd rfl hb hv hc
  have hadds : addScaled (s.readReg rd) b = s.readReg rd + 2#16 * b := by
    rw [addScaled, BitVec.ofNat_add, BitVec.ofNat_mul, BitVec.ofNat_toNat, BitVec.ofNat_toNat, BitVec.setWidth_eq,
      BitVec.setWidth_eq]
  have hmul : mul16 (s.readReg rd) b = s.readReg rd * b := by
    rw [mul16, BitVec.ofNat_mul, BitVec.ofNat_toNat, BitVec.ofNat_toNat, BitVec.setWidth_eq,
      BitVec.setWidth_eq]
  rw [← hadds, ← hmul]
  exact ⟨exec_of_drawn rfl rfl (size_operand _ _ _) hrd hb rfl hv hc,
    exec_of_drawn rfl rfl (size_operand _ _ _) hrd hb rfl hv hc⟩

/-- A divisor that is not zero raises nothing (R142, R143). -/
theorem divisor_of_ne {f : Word → Word → Word} {a b : Word} (h : b ≠ 0#16) :
    divisor f a b = .value { result := f a b, v := none, c := none } := by
  simp [divisor, h, drawnVC]

/-- Settles O27: the template with the unsigned quotient and remainder. -/
theorem divAndModResults : Obligations.DivAndModResults := by
  rintro rd src s a b v c hrd rfl hb hne hv hc
  have hpos : 0 < b.toNat := Nat.pos_of_ne_zero ((toNat_ne_zero_iff b).mpr hne)
  have hq : (div16 (s.readReg rd) b).toNat = (s.readReg rd).toNat / b.toNat := by
    rw [div16, Setting.divSigned, if_neg Bool.false_ne_true, BitVec.toNat_ofNat]
    exact Nat.mod_eq_of_lt (Nat.lt_of_le_of_lt (Nat.div_le_self _ _) (s.readReg rd).isLt)
  have hr : (mod16 (s.readReg rd) b).toNat = (s.readReg rd).toNat % b.toNat := by
    rw [mod16, Setting.divSigned, if_neg Bool.false_ne_true, BitVec.toNat_ofNat]
    exact Nat.mod_eq_of_lt (Nat.lt_of_le_of_lt (Nat.mod_le _ _) (s.readReg rd).isLt)
  refine ⟨div16 (s.readReg rd) b, mod16 (s.readReg rd) b, ?_, ?_,
    exec_of_drawn rfl rfl (size_operand _ _ _) hrd hb (divisor_of_ne hne) hv hc,
    exec_of_drawn rfl rfl (size_operand _ _ _) hrd hb (divisor_of_ne hne) hv hc⟩
  · rw [hq, hr]
    exact Nat.div_add_mod' _ _
  · rw [hr]
    exact Nat.mod_lt _ hpos

/-- The template takes the exception that its operation raises. -/
theorem flagSetting_raise_of_operation {f : Word → Word → Access AluOut} {rd : Reg} {src : Operand} {s : State}
    {b : Word} {e : Exc} (hrd : rd ≠ .flag) (hb : readOperand s src = .value b) (hf : f (s.readReg rd) b = .raise e) :
    flagSetting f rd src s = takeException e (s.pc + operandSize src) s := by
  unfold flagSetting
  split
  · exact absurd rfl hrd
  · rw [binaryOperation, hb, bind_value, hf, bind_raise, complete_raise]

/-- Settles O28: the zero divisor is raised before anything is written, and saves the PC of the instruction. -/
theorem zeroDivisorTraps : Obligations.ZeroDivisorTraps := by
  intro rd src s hrd hb
  have key (f : Word → Word → Word) : flagSetting (divisor f) rd src s = trapEntry 0xFFF8#16 s.pc s := by
    rw [flagSetting_raise_of_operation hrd hb (if_pos rfl)]
    rfl
  exact ⟨(exec_of_arm rfl rfl).trans (key div16), (exec_of_arm rfl rfl).trans (key mod16)⟩

/-! ### Shifts (42_shift.md R150 to R155) -/

/-- The next state of a shift by the low four bits of the operand. -/
theorem exec_of_shift {i : Instr} {shift : Word → Nat → Word} {lost : Word → Bool} {rd : Reg} {src : Operand}
    {s : State} {b r : Word} {v c : Bool} (harm : exec i s = guarded i s (flagSetting (aluShift shift lost) rd src s))
    (hp : Setting.privileged i = false) (hsize : i.size = operandSize src) (hrd : rd ≠ .flag)
    (hb : readOperand s src = .value b) (hr : shift (s.readReg rd) (b.toNat % 16) = r)
    (hv : v = Config.freeBit s.draws)
    (hc : c = if b.toNat % 16 = 1 then lost (s.readReg rd) else Config.freeBit (s.draws + 1)) :
    exec i s = .next { s.writeReg rd r with
      flag := { s.flag with v := v, c := c, s := r.msb, z := decide (r = 0#16) }
      pc := s.pc + i.size
      draws := s.draws + 2 } := by
  refine exec_of_drawn harm hp hsize hrd hb (by rw [aluShift_eq, hr, shiftOut]) hv ?_
  rw [hc]
  split <;> rfl

/-- Settles O29: `exec_of_shift`, SHLA and SHLL having one definition. -/
theorem leftShiftResults : Obligations.LeftShiftResults := by
  rintro rd src s a b r n v c hrd rfl hb rfl hr hv hc
  have hshift : s.readReg rd <<< (b.toNat % 16) = r := by
    rw [hr]
    apply BitVec.eq_of_toNat_eq
    rw [BitVec.toNat_shiftLeft, BitVec.toNat_ofNat, Nat.shiftLeft_eq]
  refine ⟨_, rfl, exec_of_shift rfl rfl (size_operand _ _ _) hrd hb hshift hv hc, ?_⟩
  exact exec_of_shift (i := .shll rd src) rfl rfl (size_operand _ _ _) hrd hb hshift hv hc

/-- Settles O30: `exec_of_shift`, the arithmetic shift dividing the signed value and the logical one the unsigned value. -/
theorem rightShiftResults : Obligations.RightShiftResults := by
  rintro rd src s a b n v c hrd rfl hb rfl hv hc
  refine ⟨⟨_, ?_, exec_of_shift rfl rfl (size_operand _ _ _) hrd hb rfl hv hc⟩,
    ⟨_, ?_, exec_of_shift rfl rfl (size_operand _ _ _) hrd hb rfl hv hc⟩⟩
  · rw [BitVec.toInt_sshiftRight, Int.shiftRight_eq_div_pow]
    norm_cast
  · rw [BitVec.toNat_ushiftRight, Nat.shiftRight_eq_div_pow]

/-! ### The jumps on several flags (43_jump_call.md R165 to R168, R173, R174) -/

/-- A jump whose condition is one of FLAG's. -/
theorem exec_jump_iff {i : Instr} {tgt : Target} {s : State} {f : Bool} {p : Prop} [Decidable p]
    (hi : Setting.privileged i = false) (harm : exec i s = guarded i s (jumpIf f tgt s)) (h : f = true ↔ p) :
    exec i s = .next { s with pc := if p then targetEA s tgt else s.pc + 4#16 } := by
  rw [exec_jump_if_set f hi harm, if_congr h rfl rfl]

/-- Settles O32: each condition of the model, written out. -/
theorem comparingJumps : Obligations.ComparingJumps := by
  intro tgt s
  have hless : s.flag.lessSigned = true ↔ s.flag.s ≠ s.flag.v := by simp [Flag.lessSigned]
  have hle : s.flag.lessEqualSigned = true ↔ s.flag.z = true ∨ s.flag.s ≠ s.flag.v := by
    simp [Flag.lessEqualSigned, Flag.lessSigned]
  have hlow : s.flag.lowerOrSame = true ↔ s.flag.z = true ∨ s.flag.c = true := by simp [Flag.lowerOrSame]
  refine ⟨exec_jump_iff rfl rfl ?_, exec_jump_iff rfl rfl ?_, exec_jump_iff rfl rfl hle, exec_jump_iff rfl rfl hless,
    exec_jump_iff rfl rfl ?_, exec_jump_iff rfl rfl hlow⟩
  · rw [Bool.not_eq_true', ← Bool.not_eq_true, hle, not_or, Bool.not_eq_true, not_not]
  · rw [Bool.not_eq_true', ← Bool.not_eq_true, hless, not_not]
  · rw [Bool.not_eq_true', ← Bool.not_eq_true, hlow, not_or, Bool.not_eq_true, Bool.not_eq_true]

/-- S xor V after a subtraction is the signed comparison. -/
theorem sign_ne_overflow_iff (a b : Word) :
    (a - b).msb ≠ decide ((a - b).toInt ≠ a.toInt - b.toInt) ↔ a.toInt < b.toInt := by
  have h := toInt_sub_cases a b
  have hr := toInt_range (a - b)
  have ha := toInt_range a
  have hb := toInt_range b
  rw [BitVec.msb_eq_toInt, Ne, decide_eq_decide]
  omega

/-- The condition of a jump may be said in another way. -/
theorem exec_jump_congr {i : Instr} {tgt : Target} {t : State} {p q : Prop} [Decidable p] [Decidable q]
    (h : exec i t = .next { t with pc := if p then targetEA t tgt else t.pc + 4#16 }) (hpq : p ↔ q) :
    exec i t = .next { t with pc := if q then targetEA t tgt else t.pc + 4#16 } := by
  rw [h, if_congr hpq rfl rfl]

/-- Settles O33: the flags of CMP put into the conditions of the ten jumps; S xor V is the signed order, C the unsigned
one, Z equality. -/
theorem compareThenJump : Obligations.CompareThenJump := by
  rintro rd src tgt s a b ha hb
  obtain ⟨f, hf, hcmp, -⟩ := cmpIsSubWithoutTheWrite rd src s a b ha hb
  refine ⟨_, hcmp, ?_⟩
  generalize ht : ({ s with flag := f, pc := s.pc + (Instr.cmp rd src).size } : State) = t
  have hless : t.flag.s ≠ t.flag.v ↔ a.toInt < b.toInt := by
    rw [← ht, hf]
    exact sign_ne_overflow_iff a b
  have hcarry : t.flag.c = true ↔ a.toNat < b.toNat := by rw [← ht, hf, decide_eq_true_eq]
  have hzero : t.flag.z = true ↔ a = b := by
    rw [← ht, hf, decide_eq_true_eq]
    exact sub_eq_zero
  have hsame : t.flag.s = t.flag.v ↔ ¬ a.toInt < b.toInt := by rw [← hless, not_not]
  have hint : a = b ↔ a.toInt = b.toInt := BitVec.toInt_inj.symm
  have hnat : a = b ↔ a.toNat = b.toNat := BitVec.toNat_inj.symm
  obtain ⟨jgt, jge, jle, jlt, jhi, jls⟩ := comparingJumps tgt t
  obtain ⟨jz, jc, -, -, jnz, jnc, -⟩ := oneFlagJumps.2 tgt t
  refine ⟨exec_jump_congr jgt ?_, exec_jump_congr jge ?_, exec_jump_congr jle ?_, exec_jump_congr jlt hless,
    exec_jump_congr jz hzero, exec_jump_congr jnz ?_, exec_jump_congr jhi ?_, exec_jump_congr jnc ?_,
    exec_jump_congr jls ?_, exec_jump_congr jc hcarry⟩
  · rw [← Bool.not_eq_true, hzero, hsame, hint]
    omega
  · rw [hsame]
    omega
  · rw [hzero, hless, hint]
    omega
  · rw [← Bool.not_eq_true, hzero]
  · rw [← Bool.not_eq_true, ← Bool.not_eq_true, hzero, hcarry, hnat]
    omega
  · rw [← Bool.not_eq_true, hcarry]
    omega
  · rw [hzero, hcarry, hnat]
    omega

end Sys2Proof.Machine

/-! Proofs about FLAG, effective addresses, refused registers, and about entering and leaving a trap; with them statements
of 10_state.md, 30_encoding.md, 41_arithmetic_logic.md, 45_system.md and 60_exceptions.md. -/

namespace Sys2Proof.Machine

/-! ### Writes of FLAG (10_state.md R29) -/

/-- Settles O12: `flagWrite_privileged` and `flagWrite_user`; the low five bits are taken in both modes. -/
theorem flagWriteByMode : Obligations.FlagWriteByMode := by
  intro f w
  have hlow : (f.write w).u = w.getLsbD 4 ∧ (f.write w).v = w.getLsbD 3 ∧ (f.write w).c = w.getLsbD 2 ∧
      (f.write w).s = w.getLsbD 1 ∧ (f.write w).z = w.getLsbD 0 := by
    unfold Flag.write
    split
    · exact ⟨rfl, rfl, rfl, rfl, rfl⟩
    · exact ⟨rfl, rfl, rfl, rfl, rfl⟩
  obtain ⟨hu, hv, hc, hs, hz⟩ := hlow
  refine ⟨hu, hv, hc, hs, hz, fun hp => ?_, flagWrite_user f w⟩
  rw [flagWrite_privileged f w hp]
  exact ⟨rfl, rfl, rfl⟩

/-! ### Effective addresses and bytes (30_encoding.md R88, R94, R95) -/

/-- An indexed address is the sum modulo 2^16. -/
theorem indexedEA_eq (s : State) (dsp : Word) (rx : Reg) :
    indexedEA s dsp rx = BitVec.ofNat 16 (dsp.toNat + (s.readReg rx).toNat) := by
  apply BitVec.eq_of_toNat_eq
  rw [indexedEA, BitVec.toNat_add, BitVec.toNat_ofNat]

/-- A byte widened to a word has zeros above it. -/
theorem setWidth_byte (b : Byte) : b.setWidth 16 = 0#8 ++ b := by
  have hb : b.toNat < 65536 := Nat.lt_trans b.isLt (by decide)
  apply BitVec.eq_of_toNat_eq
  rw [BitVec.toNat_setWidth, BitVec.toNat_append, Nat.mod_eq_of_lt hb]
  simp

/-- Settles O17: `indexedEA_eq` and `fpRelEA_eq_ofInt` for the forms with arithmetic; a byte is widened with zeros. -/
theorem effectiveAddressesWrapAndBytesZeroExtend : Obligations.EffectiveAddressesWrapAndBytesZeroExtend := by
  intro s dsp rx d4
  have hindexed := indexedEA_eq s dsp rx
  refine ⟨congrArg (readWord s) hindexed, fun b hm hb => ?_, rfl, hindexed, rfl, hindexed, fpRelEA_eq_ofInt s d4, rfl,
    rfl, rfl, rfl⟩
  rw [readOperand, readByte_value hm hb, bind_value, setWidth_byte]

/-! ### NO, refused registers, HALT -/

/-- Settles O18: NO by its definition. -/
theorem noOnlyAdvances : Obligations.NoOnlyAdvances := fun _ => exec_of_arm rfl rfl

theorem exec_push_refused {rd : Reg} {s : State} (h : isCurrentSp s rd = true) :
    exec (.push rd) s = .refused .pushPopOfSp :=
  (exec_of_arm rfl rfl).trans (if_pos h)

theorem exec_pop_refused {rd : Reg} {s : State} (h : isCurrentSp s rd = true) :
    exec (.pop rd) s = .refused .pushPopOfSp :=
  (exec_of_arm rfl rfl).trans (if_pos h)

/-- Settles O38: the template refuses FLAG, and PUSH and POP the register that is the stack pointer in use. -/
theorem refusedRegisters : Obligations.RefusedRegisters := by
  intro src s i
  refine ⟨fun hi => ?_, exec_push_refused rfl, exec_pop_refused rfl, fun hp => ?_⟩
  · obtain ⟨f, harm⟩ := exec_flagSetting hi
    rw [harm]
    rfl
  · have husp : isCurrentSp s .usp = true := by simp [isCurrentSp, hp]
    exact ⟨exec_push_refused husp, exec_pop_refused husp⟩

/-- Settles O49: in privileged mode HALT is admitted, and a step of a halted machine is its first test. -/
theorem haltStopsInPrivilegedMode : Obligations.HaltStopsInPrivilegedMode := by
  refine fun s hp => ⟨?_, fun t ht => ?_⟩
  · have hg : exec .halt s = _ := guarded_of_allowed _ ((allowed_halt s).trans hp)
    exact hg
  · simp [step, ht]

/-- Settles O48: an instruction that may not run takes PrivilegeViolation, which records nothing in the MMU and saves the
PC of the instruction. -/
theorem privilegeViolationsTrap : Obligations.PrivilegeViolationsTrap := by
  intro s rd port hp
  have htrap : takeException .privilegeViolation s.pc s = trapEntry 0xFFFA#16 s.pc s := rfl
  refine ⟨(guarded_of_not_allowed _ ((allowed_halt s).trans hp)).trans htrap, fun hi => ?_⟩
  have hpi : (s.flag.p || s.flag.i) = false := by rw [hp, hi]; rfl
  exact ⟨(guarded_of_not_allowed _ ((allowed_inp rd port s).trans hpi)).trans htrap,
    (guarded_of_not_allowed _ ((allowed_out rd port s).trans hpi)).trans htrap⟩

/-! ### The trap frame (60_exceptions.md R225) -/

theorem sub_four (a : Word) : a - 4#16 = a - 2#16 - 2#16 := by bv_omega

/-- What the frame of a trap entry leaves everywhere: the two words, and every other byte as before. -/
theorem trapPushed_reads {s : State} (saved : Word) (hm : s.mmu.enabled = false) (ha : isOdd s.ssp = false)
    (hr1 : s.inRom (s.ssp - 2#16) = false) (hr2 : s.inRom (s.ssp - 4#16) = false) :
    readWord (trapPushed saved s) (s.ssp - 2#16) = .value saved ∧
      readWord (trapPushed saved s) (s.ssp - 4#16) = .value s.flag.toWord ∧
      (∀ x, x ≠ s.ssp - 1#16 → x ≠ s.ssp - 2#16 → x ≠ s.ssp - 3#16 → x ≠ s.ssp - 4#16 →
        (trapPushed saved s).byteAt? x = s.byteAt? x ∧
          Memory.read? (trapPushed saved s).mem x.toNat = Memory.read? s.mem x.toNat) ∧
      ∀ vec w, vec ≠ s.ssp - 2#16 → vec ≠ s.ssp - 4#16 → readWord s vec = .value w →
        readWord (trapPushed saved s) vec = .value w := by
  rw [sub_four] at hr2 ⊢
  obtain ⟨u, w, hu, hw, hread, hbyte⟩ := trapPushed_writes saved hm ha hr1 hr2
  have hne : s.ssp - 2#16 ≠ s.ssp - 2#16 - 2#16 := by bv_omega
  have h1 : s.ssp - 2#16 + 1#16 = s.ssp - 1#16 := by bv_omega
  have h3 : s.ssp - 2#16 - 2#16 + 1#16 = s.ssp - 3#16 := by bv_omega
  refine ⟨?_, ?_, fun x hx1 hx2 hx3 hx4 => ⟨?_, ?_⟩, fun vec v hv2 hv4 hv => ?_⟩
  · exact (hread _).trans (readWord_writeWord_other hw hne (readWord_writeWord_same hu))
  · exact (hread _).trans (readWord_writeWord_same hw)
  · rw [hbyte, byteAt_writeWord hw, h3, if_neg hx3, if_neg hx4, byteAt_writeWord hu, h1, if_neg hx1, if_neg hx2]
  · have hmem : (trapPushed saved s).mem = trapFrame s saved := rfl
    rw [hmem, trapFrame, read_storedWord_other _ _ hx4 (by rwa [h3]), read_storedWord_other _ _ hx2 (by rwa [h1])]
  · exact (hread _).trans (readWord_writeWord_other hw hv4 (readWord_writeWord_other hu hv2 hv))

/-- Settles O46: the frame by `trapPushed_reads`, which leaves the vector readable. -/
theorem trapEntryEffect : Obligations.TrapEntryEffect := by
  intro s vec saved handler hm ha hr1 hr2 hv2 hv4 hv
  have heven := even_iff.mpr ha
  obtain ⟨hsaved, hflag, hframe, hvec⟩ := trapPushed_reads saved hm heven hr1 hr2
  have hentry := trapEntry_of hm heven hr1 (by rwa [← sub_four]) (hvec vec handler hv2 hv4 hv)
  refine ⟨_, hentry, hsaved, hflag, hframe, ?_⟩
  rw [sub_four]
  rfl

/-- SVC is the trap entry through FFFEh with the address after it (45_system.md R202). -/
theorem exec_svc (s : State) : exec .svc s = trapEntry 0xFFFE#16 (s.pc + 2#16) s := exec_of_arm rfl rfl

theorem svcVector_ne_sub_two {a : Word} (h : a ≠ 0#16) : 0xFFFE#16 ≠ a - 2#16 := by bv_omega

theorem svcVector_ne_sub_four {a : Word} (h : a ≠ 2#16) : 0xFFFE#16 ≠ a - 4#16 := by bv_omega

/-- Settles O47: the trap entry of `exec_svc`; its vector is none of the frame's words unless SSP is 0000h or 0002h. -/
theorem svcEntersThroughItsVector : Obligations.SvcEntersThroughItsVector := by
  intro s handler hm ha hr1 hr2 h0 h2 hv
  rw [exec_svc]
  exact trapEntryEffect s 0xFFFE#16 (s.pc + 2#16) handler hm ha hr1 hr2 (svcVector_ne_sub_two h0)
    (svcVector_ne_sub_four h2) hv

/-- A word of memory does not depend on the PC. -/
theorem readWord_setPc (s : State) (v a : Word) : readWord (s.setPc v) a = readWord s a := rfl

/-- Settles O51: the handler's stack pointer is SSP below the frame (`trapEntry_next`), where RETI reads back the two words
(`trapPushed_reads`); FLAG is the word of the old one. -/
theorem retiUndoesTrapEntry : Obligations.RetiUndoesTrapEntry := by
  intro s t vec saved here h
  obtain ⟨hm, ha, hr1, hr2, handler, -, rfl⟩ := trapEntry_next h
  obtain ⟨hsaved, hflag, -, -⟩ := trapPushed_reads saved hm ha hr1 (by rwa [sub_four])
  rw [sub_four] at hflag
  have hback : s.ssp - 2#16 - 2#16 + 2#16 = s.ssp - 2#16 := by bv_omega
  have hssp : s.ssp - 2#16 - 2#16 + 4#16 = s.ssp := by bv_omega
  have hreti := retiPopsFlagAndPc ((trapPushed saved s).setPc here) s.flag.toWord saved (s.ssp - 2#16 - 2#16) rfl
    ((readWord_setPc _ _ _).trans hflag) (by rw [hback, readWord_setPc, hsaved])
  rw [hssp, ofWord_toWord] at hreti
  have hhere : { (trapPushed saved s).setPc handler with pc := here } = (trapPushed saved s).setPc here := rfl
  rw [hhere, hreti]
  rfl

end Sys2Proof.Machine

/-! Proofs about every step: what an instruction can do that answers a next state, said once, and from it the rules of the
whole machine: the invariant, the overlay, the interrupt requests, user mode, and which instructions store. -/

namespace Sys2Proof.Machine

/-! ### What an instruction leaves alone -/

/-- All that an instruction changes are registers, flags, the PC, the count of free values and device registers other than
an interrupt enable; in user mode, none of E, P, I and SSP (60_exceptions.md R242). -/
structure Quiet (s t : State) : Prop where
  mem : t.mem = s.mem
  irq : t.irq = s.irq
  ipl : t.iplAttached = s.iplAttached
  mmu : t.mmu = s.mmu
  enables : ∀ k, t.io.intEnable k = s.io.intEnable k
  user : s.flag.p = false → t.flag.p = false ∧ t.flag.e = s.flag.e ∧ t.flag.i = s.flag.i ∧ t.ssp = s.ssp

namespace Quiet

theorem refl (s : State) : Quiet s s := ⟨rfl, rfl, rfl, rfl, fun _ => rfl, fun h => ⟨h, rfl, rfl, rfl⟩⟩

theorem trans {s t u : State} (h : Quiet s t) (h' : Quiet t u) : Quiet s u where
  mem := h'.mem.trans h.mem
  irq := h'.irq.trans h.irq
  ipl := h'.ipl.trans h.ipl
  mmu := h'.mmu.trans h.mmu
  enables k := (h'.enables k).trans (h.enables k)
  user hp := by
    obtain ⟨hp1, he1, hi1, hs1⟩ := h.user hp
    obtain ⟨hp2, he2, hi2, hs2⟩ := h'.user hp1
    exact ⟨hp2, he2.trans he1, hi2.trans hi1, hs2.trans hs1⟩

theorem setPc (s : State) (v : Word) : Quiet s (s.setPc v) :=
  ⟨rfl, rfl, rfl, rfl, fun _ => rfl, fun h => ⟨h, rfl, rfl, rfl⟩⟩

theorem setFlagsOf (s : State) (o : AluOut) : Quiet s (s.setFlagsOf o) :=
  ⟨rfl, rfl, rfl, rfl, fun _ => rfl, fun h => ⟨h, rfl, rfl, rfl⟩⟩

/-- A write of FLAG keeps E, P and I in user mode (10_state.md R29). -/
theorem setFlag (s : State) (w : Word) : Quiet s (s.setFlag (s.flag.write w)) := by
  refine ⟨rfl, rfl, rfl, rfl, fun _ => rfl, fun h => ?_⟩
  obtain ⟨he, hp, hi⟩ := flagWrite_user s.flag w h
  exact ⟨hp.trans h, he, hi, rfl⟩

/-- In user mode the stack pointer in use is USP (10_state.md R23). -/
theorem setSp (s : State) (v : Word) : Quiet s (s.setSp v) := by
  refine ⟨setSp_mem s v, setSp_irq s v, setSp_iplAttached s v, setSp_mmu s v, fun k => by rw [setSp_io], fun h => ?_⟩
  rw [setSp_user s v h]
  exact ⟨h, rfl, rfl, rfl⟩

theorem writeReg (s : State) (r : Reg) (v : Word) : Quiet s (s.writeReg r v) := by
  cases r with
  | sp => exact setSp s v
  | flag => exact setFlag s v
  | _ => exact ⟨rfl, rfl, rfl, rfl, fun _ => rfl, fun h => ⟨h, rfl, rfl, rfl⟩⟩

theorem readPort (s : State) (p : InPort) : Quiet s (readPort s p).2 := by
  have henables := readPort_intEnable s p
  obtain ⟨n, x, h⟩ := readPort_state s p
  rw [h] at henables ⊢
  exact ⟨rfl, rfl, rfl, rfl, henables, fun h => ⟨h, rfl, rfl, rfl⟩⟩

end Quiet

/-! ### What an instruction can do -/

/-- The instructions that store (40_nop_load_store.md R122, 43_jump_call.md R176, 44_io_stack.md R192). -/
def Stores (i : Instr) : Prop :=
  (∃ rd dst, i = .st rd dst) ∨ (∃ rd, i = .push rd) ∨ ∃ tgt, i = .call tgt

/-- How an instruction that raises no exception finishes: quietly, with memory stored to, or with a port written. -/
inductive Finishes (i : Instr) (s t : State) : Prop
  | quiet (h : Quiet s t)
  | stored (m : Memory) (hi : Stores i) (hwf : s.mem.wf = true → m.wf = true) (h : Quiet (s.setMem m) t)
  | wrotePort (rd : Reg) (port : PortOperand) (p : OutPort) (a v : Word) (hi : i = .out rd port)
      (hp : outRefusal s p v = none)
      (h : Quiet { s with
        io := writeIo s.io p v
        mmu := writeMmu s.mmu p v
        iplAttached := writeIpl s.iplAttached p v
        outEvents := s.outEvents ++ [(a, v)] } t)

/-- The exceptions that instructions raise, with the address after the instruction where it is saved. -/
inductive Arises (s : State) : Exc → Word → Prop
  | badAddr (a next : Word) : Arises s (.memoryProtection .badAddr a) next
  | zeroDivision (next : Word) : Arises s .zeroDivision next
  | privilegeViolation (next : Word) : Arises s .privilegeViolation next
  | svc : Arises s .svc (s.pc + 2#16)

/-- An exception has been taken from the state. -/
def Raises (s t : State) : Prop :=
  ∃ e next, Arises s e next ∧ takeException e next s = .next t

/-- Everything an instruction can do that answers a next state. -/
def Outcome (i : Instr) (s t : State) : Prop :=
  Finishes i s t ∨ Raises s t

/-- The guard before an instruction. -/
theorem outcome_of_guarded {i : Instr} {s t : State} {effect : Result} (harm : exec i s = guarded i s effect)
    (h : exec i s = .next t) (heffect : effect = .next t → Outcome i s t) : Outcome i s t := by
  rcases guarded_eq_next (harm.symm.trans h) with ⟨-, h⟩ | ⟨-, h⟩
  · exact heffect h
  · exact .inr ⟨_, _, .privilegeViolation _, h⟩

/-- The end of an instruction. -/
theorem outcome_of_complete {i : Instr} {s t : State} {next : Word} {x : Access State} (h : complete s next x = .next t)
    (hvalue : x = .value t → Finishes i s t) (hraise : ∀ e, x = .raise e → Arises s e next) : Outcome i s t := by
  rcases complete_eq_next h with hx | ⟨e, hx, he⟩
  · exact .inl (hvalue hx)
  · exact .inr ⟨e, next, hraise e hx, he⟩

theorem arises_of_readWord {s : State} {a next : Word} {e : Exc} (h : readWord s a = .raise e) : Arises s e next := by
  obtain ⟨-, rfl⟩ := readWord_eq_raise h
  exact .badAddr _ _

theorem arises_of_readOperand {s : State} {o : Operand} {next : Word} {e : Exc} (h : readOperand s o = .raise e) :
    Arises s e next := by
  obtain ⟨a, -, rfl⟩ := readOperand_eq_raise h
  exact .badAddr _ _

theorem arises_of_push {s : State} {v next : Word} {e : Exc} (h : push s v = .raise e) : Arises s e next := by
  obtain ⟨-, rfl⟩ := push_eq_raise h
  exact .badAddr _ _

theorem arises_of_pop {s : State} {next : Word} {e : Exc} (h : pop s = .raise e) : Arises s e next := by
  obtain ⟨-, rfl⟩ := pop_eq_raise h
  exact .badAddr _ _

/-- A raise of a sequence whose end only computes. -/
theorem raise_of_bind_value {α β : Type} {x : Access α} {g : α → β} {e : Exc}
    (h : (x.bind fun a => .value (g a)) = .raise e) : x = .raise e := by
  rcases bind_eq_raise h with h | ⟨a, -, h⟩
  · exact h
  · cases h

/-- The template of the instructions that write a result and the flags. -/
theorem outcome_of_flagSetting {i : Instr} {f : Word → Word → Access AluOut} {rd : Reg} {src : Operand} {s t : State}
    (harm : exec i s = guarded i s (flagSetting f rd src s)) (hf : ∀ a b e, f a b = .raise e → e = .zeroDivision)
    (h : exec i s = .next t) : Outcome i s t := by
  refine outcome_of_guarded harm h fun h => ?_
  unfold flagSetting at h
  split at h
  · cases h
  · refine outcome_of_complete h (fun hv => ?_) fun e he => ?_
    · obtain ⟨b, -, hv⟩ := bind_eq_value hv
      obtain ⟨o, -, hv⟩ := bind_eq_value hv
      cases hv
      exact .quiet (((Quiet.writeReg s rd o.result).trans (.setFlagsOf _ o)).trans (.setPc _ _))
    · rcases bind_eq_raise he with he | ⟨b, -, he⟩
      · exact arises_of_readOperand he
      · rw [hf _ _ _ (raise_of_bind_value he)]
        exact .zeroDivision _

theorem divisor_raise {f : Word → Word → Word} (a b : Word) (e : Exc) (h : divisor f a b = .raise e) :
    e = .zeroDivision := by
  unfold divisor at h
  split at h <;> cases h
  rfl

theorem aluShift_raise {shift : Word → Nat → Word} {lost : Word → Bool} (a b : Word) (e : Exc)
    (h : aluShift shift lost a b = .raise e) : e = .zeroDivision := by
  rw [aluShift_eq] at h
  cases h

/-- The template of the jumps. -/
theorem outcome_of_jump {i : Instr} {cond : Bool} {tgt : Target} {s t : State}
    (harm : exec i s = guarded i s (jumpIf cond tgt s)) (h : exec i s = .next t) : Outcome i s t := by
  refine outcome_of_guarded harm h fun h => ?_
  cases h
  exact .inl (.quiet (.setPc _ _))

theorem outcome_ld {rd : Reg} {src : Operand} {s t : State} (h : exec (.ld rd src) s = .next t) :
    Outcome (.ld rd src) s t := by
  rw [exec_ld] at h
  refine outcome_of_complete h (fun hv => ?_) fun e he => arises_of_readOperand (raise_of_bind_value he)
  obtain ⟨v, -, hv⟩ := bind_eq_value hv
  cases hv
  exact .quiet ((Quiet.writeReg s rd v).trans (.setPc _ _))

theorem outcome_cmp {rd : Reg} {src : Operand} {s t : State} (h : exec (.cmp rd src) s = .next t) :
    Outcome (.cmp rd src) s t := by
  rw [exec_cmp] at h
  refine outcome_of_complete h (fun hv => ?_) fun e he => arises_of_readOperand (raise_of_bind_value he)
  obtain ⟨v, -, hv⟩ := bind_eq_value hv
  cases hv
  exact .quiet ((Quiet.setFlagsOf s _).trans (.setPc _ _))

theorem outcome_st {rd : Reg} {dst : StoreOperand} {s t : State} (h : exec (.st rd dst) s = .next t) :
    Outcome (.st rd dst) s t := by
  rw [exec_st] at h
  refine outcome_of_complete h (fun hv => ?_) fun e he => ?_
  · obtain ⟨u, hu, hv⟩ := bind_eq_value hv
    cases hv
    obtain ⟨-, -, rfl | rfl⟩ := storeOperand_eq_value hu
    · exact .stored _ (.inl ⟨rd, dst, rfl⟩) (wf_storedWord _ _) (.setPc _ _)
    · exact .stored _ (.inl ⟨rd, dst, rfl⟩) (fun hwf => wf_write hwf (storeEA s dst).isLt) (.setPc _ _)
  · obtain ⟨-, rfl⟩ := storeOperand_eq_raise (raise_of_bind_value he)
    exact .badAddr _ _

/-- What CALL and PUSH have in common. -/
theorem finishes_of_push {i : Instr} {s u : State} {v pc : Word} (hi : Stores i) (h : push s v = .value u) :
    Finishes i s (u.setPc pc) := by
  obtain ⟨-, -, -, rfl⟩ := push_eq_value h
  exact .stored _ hi (wf_storedWord _ _) ((Quiet.setSp _ _).trans (.setPc _ _))

theorem outcome_call {tgt : Target} {s t : State} (h : exec (.call tgt) s = .next t) : Outcome (.call tgt) s t := by
  rw [exec_call] at h
  refine outcome_of_complete h (fun hv => ?_) fun e he => arises_of_push (raise_of_bind_value he)
  obtain ⟨u, hu, hv⟩ := bind_eq_value hv
  cases hv
  exact finishes_of_push (.inr (.inr ⟨tgt, rfl⟩)) hu

theorem outcome_push {rd : Reg} {s t : State} (h : exec (.push rd) s = .next t) : Outcome (.push rd) s t := by
  cases hsp : isCurrentSp s rd with
  | true =>
    rw [exec_push_refused hsp] at h
    cases h
  | false =>
    rw [exec_push hsp] at h
    refine outcome_of_complete h (fun hv => ?_) fun e he => arises_of_push (raise_of_bind_value he)
    obtain ⟨u, hu, hv⟩ := bind_eq_value hv
    cases hv
    exact finishes_of_push (.inr (.inl ⟨rd, rfl⟩)) hu

theorem outcome_pop {rd : Reg} {s t : State} (h : exec (.pop rd) s = .next t) : Outcome (.pop rd) s t := by
  cases hsp : isCurrentSp s rd with
  | true =>
    rw [exec_pop_refused hsp] at h
    cases h
  | false =>
    rw [exec_pop hsp] at h
    refine outcome_of_complete h (fun hv => ?_) fun e he => arises_of_pop (raise_of_bind_value he)
    obtain ⟨⟨v, u⟩, hu, hv⟩ := bind_eq_value hv
    cases hv
    obtain ⟨-, rfl⟩ := pop_eq_value hu
    exact .quiet (((Quiet.setSp s _).trans (.writeReg _ rd v)).trans (.setPc _ _))

theorem outcome_ret {s t : State} (h : exec .ret s = .next t) : Outcome .ret s t := by
  rw [exec_ret] at h
  refine outcome_of_complete h (fun hv => ?_) fun e he => arises_of_pop (raise_of_bind_value he)
  obtain ⟨⟨v, u⟩, hu, hv⟩ := bind_eq_value hv
  cases hv
  obtain ⟨-, rfl⟩ := pop_eq_value hu
  exact .quiet ((Quiet.setSp s _).trans (.setPc _ _))

theorem outcome_reti {s t : State} (h : exec .reti s = .next t) : Outcome .reti s t := by
  rw [exec_reti] at h
  refine outcome_of_complete h (fun hv => ?_) fun e he => ?_
  · obtain ⟨f, p, -, -, rfl⟩ := trapReturn_eq_value hv
    have hflag := Quiet.setFlag (s.setSp (s.sp + 4#16)) f
    rw [setSp_flag] at hflag
    exact .quiet (((Quiet.setSp s _).trans hflag).trans (.setPc _ _))
  · obtain ⟨-, a, rfl⟩ := trapReturn_eq_raise he
    exact .badAddr _ _

theorem outcome_inp {rd : Reg} {port : PortOperand} {s t : State} (h : exec (.inp rd port) s = .next t) :
    Outcome (.inp rd port) s t := by
  refine outcome_of_guarded rfl h fun h => outcome_of_complete h (fun hv => ?_) fun e he =>
    absurd (raise_of_bind_value he) (ioRead_ne_raise _ _ _)
  obtain ⟨r, hr, hv⟩ := bind_eq_value hv
  cases hv
  obtain ⟨p, -, rfl⟩ := ioRead_eq_value hr
  exact .quiet (((Quiet.readPort s p).trans (.writeReg _ rd _)).trans (.setPc _ _))

theorem outcome_out {rd : Reg} {port : PortOperand} {s t : State} (h : exec (.out rd port) s = .next t) :
    Outcome (.out rd port) s t := by
  refine outcome_of_guarded rfl h fun h => outcome_of_complete h (fun hv => ?_) fun e he =>
    absurd (raise_of_bind_value he) (ioWrite_ne_raise _ _ _ _)
  obtain ⟨u, hu, hv⟩ := bind_eq_value hv
  cases hv
  obtain ⟨p, -, hp, rfl⟩ := ioWrite_eq_value hu
  exact .wrotePort rd port p _ _ rfl hp (.setPc _ _)

theorem outcome_halt {s t : State} (h : exec .halt s = .next t) : Outcome .halt s t := by
  refine outcome_of_guarded rfl h fun h => ?_
  cases h
  exact .inl (.quiet ⟨rfl, rfl, rfl, rfl, fun _ => rfl, fun h => ⟨h, rfl, rfl, rfl⟩⟩)

/-- Everything any instruction can do that answers a next state: the templates by their lemmas, the others one by one. -/
theorem exec_outcome {i : Instr} {s t : State} (h : exec i s = .next t) : Outcome i s t := by
  cases i with
  | no => exact outcome_of_guarded rfl h fun h => by cases h; exact .inl (.quiet (.setPc _ _))
  | ld rd src => exact outcome_ld h
  | st rd dst => exact outcome_st h
  | cmp rd src => exact outcome_cmp h
  | div rd src => exact outcome_of_flagSetting rfl divisor_raise h
  | mod rd src => exact outcome_of_flagSetting rfl divisor_raise h
  | add rd src => exact outcome_of_flagSetting rfl (fun _ _ _ => nofun) h
  | sub rd src => exact outcome_of_flagSetting rfl (fun _ _ _ => nofun) h
  | and rd src => exact outcome_of_flagSetting rfl (fun _ _ _ => nofun) h
  | or rd src => exact outcome_of_flagSetting rfl (fun _ _ _ => nofun) h
  | xor rd src => exact outcome_of_flagSetting rfl (fun _ _ _ => nofun) h
  | adds rd src => exact outcome_of_flagSetting rfl (fun _ _ _ => nofun) h
  | mul rd src => exact outcome_of_flagSetting rfl (fun _ _ _ => nofun) h
  | shla rd src => exact outcome_of_flagSetting rfl aluShift_raise h
  | shll rd src => exact outcome_of_flagSetting rfl aluShift_raise h
  | shra rd src => exact outcome_of_flagSetting rfl aluShift_raise h
  | shrl rd src => exact outcome_of_flagSetting rfl aluShift_raise h
  | call tgt => exact outcome_call h
  | inp rd port => exact outcome_inp h
  | out rd port => exact outcome_out h
  | push rd => exact outcome_push h
  | pop rd => exact outcome_pop h
  | ret => exact outcome_ret h
  | reti => exact outcome_reti h
  | svc => exact outcome_of_guarded rfl h fun h => .inr ⟨_, _, .svc, h⟩
  | halt => exact outcome_halt h
  | _ => exact outcome_of_jump rfl h

/-! ### What a trap entry leaves alone (60_exceptions.md R225) -/

/-- A trap entry runs with the MMU off, stores its frame, and leaves the requests, the overlay, the MMU and the devices. -/
theorem trapEntry_leaves {s t : State} {vec saved : Word} (h : trapEntry vec saved s = .next t) :
    s.mmu.enabled = false ∧ t.mem = trapFrame s saved ∧ t.irq = s.irq ∧ t.iplAttached = s.iplAttached ∧
      t.mmu = s.mmu ∧ t.io = s.io := by
  obtain ⟨hm, -, -, -, handler, -, rfl⟩ := trapEntry_next h
  exact ⟨hm, rfl, rfl, rfl, rfl, rfl⟩

/-- An exception is a trap entry from the state before it, the MMU's registers apart. -/
theorem trapEntry_of_raises {s t : State} (h : Raises s t) :
    ∃ vec saved m, trapEntry vec saved (s.setMmu m) = .next t := by
  obtain ⟨e, next, -, he⟩ := h
  exact ⟨_, _, _, he⟩

/-- An exception of the fetch is one that an instruction raises too. -/
theorem raises_of_fetch {s t : State} {e : Exc} {next : Word} (hf : fetch s = .raise e)
    (h : takeException e next s = .next t) : Raises s t := by
  obtain ⟨-, a, rfl⟩ := fetch_eq_raise hf
  exact ⟨_, _, .badAddr a next, h⟩

/-- Everything a step can do that answers a next state: take a request, finish an instruction, or take an exception of the
instruction or of its fetch. -/
theorem step_outcome {s t : State} (h : step s = .next t) :
    (∃ k, s.recognised = some k ∧ takeInterrupt k s = .next t) ∨ (∃ i, Finishes i s t) ∨ Raises s t := by
  obtain ⟨-, ⟨k, hk, h⟩ | ⟨-, i, -, h⟩ | ⟨-, e, hf, h⟩⟩ := step_eq_next h
  · exact .inl ⟨k, hk, h⟩
  · exact .inr ((exec_outcome h).imp_left fun hi => ⟨i, hi⟩)
  · exact .inr (.inr (raises_of_fetch hf h))

/-! ### The invariant (20_memory.md sections 4 and 6) -/

theorem wf_trapFrame {s : State} (saved : Word) (h : s.mem.wf = true) : (trapFrame s saved).wf = true :=
  wf_storedWord _ _ (wf_storedWord _ _ h)

theorem inv_of_trapEntry {s t : State} {vec saved : Word} (hs : s.mem.wf = true) (h : trapEntry vec saved s = .next t) :
    t.Inv := by
  obtain ⟨hm, hmem, -, -, hmmu, -⟩ := trapEntry_leaves h
  exact ⟨by rw [hmem]; exact wf_trapFrame saved hs, by rw [hmmu]; exact hm⟩

/-- No admitted OUT enables the MMU (20_memory.md R66). -/
theorem writeMmu_enabled {s : State} {p : OutPort} {v : Word} (hp : outRefusal s p v = none)
    (hm : s.mmu.enabled = false) : (writeMmu s.mmu p v).enabled = false := by
  cases p with
  | mmuEnable =>
    simp only [outRefusal] at hp
    split at hp
    · cases hp
    · rename_i hv
      simpa [writeMmu] using hv
  | _ => exact hm

theorem inv_of_finishes {i : Instr} {s t : State} (hs : s.Inv) (h : Finishes i s t) : t.Inv := by
  obtain ⟨hwf, hm⟩ := hs
  cases h with
  | quiet h => exact ⟨by rw [h.mem]; exact hwf, by rw [h.mmu]; exact hm⟩
  | stored m hi hkeep h => exact ⟨by rw [h.mem]; exact hkeep hwf, by rw [h.mmu]; exact hm⟩
  | wrotePort rd port p a v hi hp h =>
    exact ⟨by rw [h.mem]; exact hwf, by rw [h.mmu]; exact writeMmu_enabled hp hm⟩

/-- Settles O55: each thing a step can do keeps the invariant (`step_outcome`). -/
theorem stepKeepsInv : Obligations.StepKeepsInv := by
  intro s t hs h
  rcases step_outcome h with ⟨k, -, h⟩ | ⟨i, h⟩ | h
  · exact inv_of_trapEntry (vec := k.vector) (saved := s.pc) (s := s.setIrq (clearRequest s.irq k)) hs.memory_canonical h
  · exact inv_of_finishes hs h
  · obtain ⟨vec, saved, m, h⟩ := trapEntry_of_raises h
    exact inv_of_trapEntry (s := s.setMmu m) hs.memory_canonical h

/-- A register written from outside leaves memory and the MMU. -/
theorem consoleWrite_leaves (s : State) (r : ConsoleReg) (v : Word) :
    (s.consoleWrite r v).mem = s.mem ∧ (s.consoleWrite r v).mmu = s.mmu := by
  cases r with
  | sp => exact ⟨setSp_mem s v, setSp_mmu s v⟩
  | _ => exact ⟨rfl, rfl⟩

theorem hostMove_raiseRequest (k : IntSource) (s : State) :
    hostMove (.raiseRequest k) s = if s.io.intEnable k then s.setIrq (setRequest s.irq k) else s := rfl

/-- Every move of the host keeps the invariant. -/
theorem inv_hostMove (m : HostMove) {s : State} (hs : s.Inv) : (hostMove m s).Inv := by
  obtain ⟨hwf, hm⟩ := hs
  cases m with
  | raiseRequest k =>
    rw [hostMove_raiseRequest]
    split
    · exact ⟨hwf, hm⟩
    · exact ⟨hwf, hm⟩
  | writeByte addr b => exact ⟨wf_write hwf addr.isLt, hm⟩
  | writeReg r v =>
    obtain ⟨hmem, hmmu⟩ := consoleWrite_leaves s r v
    exact ⟨(congrArg Memory.wf hmem).trans hwf, (congrArg Mmu.enabled hmmu).trans hm⟩
  | reset => exact ⟨rfl, rfl⟩

/-- Settles O56: the base case, steps and moves put together by induction on how a state is reached. -/
theorem reachableStatesHaveInv : Obligations.ReachableStatesHaveInv := by
  refine ⟨fun m s hs => inv_hostMove m hs, fun s hr => ?_⟩
  induction hr with
  | reset => exact invAtReset
  | step _ hstep ih => exact stepKeepsInv _ _ ih hstep
  | move m _ ih => exact inv_hostMove m ih

/-! ### The overlay and the requests -/

theorem iplAttached_of_finishes {i : Instr} {s t : State} (hs : s.iplAttached = false) (h : Finishes i s t) :
    t.iplAttached = false := by
  cases h with
  | quiet h => rw [h.ipl, hs]
  | stored m hi hkeep h => rw [h.ipl]; exact hs
  | wrotePort rd port p a v hi hp h =>
    rw [h.ipl]
    cases p with
    | iplDetach => simp [writeIpl, hs]
    | _ => exact hs

/-- Settles O58: a trap entry leaves the overlay, and an OUT can only detach the ROM. -/
theorem iplStaysDetached : Obligations.IplStaysDetached := by
  intro s t hs h
  rcases step_outcome h with ⟨k, -, h⟩ | ⟨i, h⟩ | h
  · obtain ⟨-, -, -, hipl, -, -⟩ := trapEntry_leaves h
    exact hipl.trans hs
  · exact iplAttached_of_finishes hs h
  · obtain ⟨vec, saved, m, h⟩ := trapEntry_of_raises h
    obtain ⟨-, -, -, hipl, -, -⟩ := trapEntry_leaves h
    exact hipl.trans hs

theorem irq_of_finishes {i : Instr} {s t : State} (h : Finishes i s t) : t.irq = s.irq := by
  cases h with
  | quiet h => exact h.irq
  | stored m hi hkeep h => exact h.irq
  | wrotePort rd port p a v hi hp h => exact h.irq

/-- Settles O9: with E = 0 no request is recognised, and nothing else a step can do changes one. -/
theorem requestsWaitWhileDisabled : Obligations.RequestsWaitWhileDisabled := by
  intro s t he h
  rcases step_outcome h with ⟨k, hk, -⟩ | ⟨i, h⟩ | h
  · rw [recognised_eq_none (.inl he)] at hk
    cases hk
  · exact irq_of_finishes h
  · obtain ⟨vec, saved, m, h⟩ := trapEntry_of_raises h
    obtain ⟨-, -, hirq, -, -, -⟩ := trapEntry_leaves h
    exact hirq

/-! ### Which instructions store -/

/-- The frame of a trap entry from a state that differs from `s` in its requests and the MMU's registers at most. -/
theorem trapEntry_effect {s t : State} {vec saved : Word} {irq' : BitVec 10} {mmu' : Mmu}
    (h : trapEntry vec saved { s with irq := irq', mmu := mmu' } = .next t) :
    readWord t (s.ssp - 2#16) = .value saved ∧ readWord t (s.ssp - 4#16) = .value s.flag.toWord ∧
      (∀ x, x ≠ s.ssp - 1#16 → x ≠ s.ssp - 2#16 → x ≠ s.ssp - 3#16 → x ≠ s.ssp - 4#16 →
        t.byteAt? x = s.byteAt? x ∧ Memory.read? t.mem x.toNat = Memory.read? s.mem x.toNat) ∧
      t.flag = { s.flag with p := true, e := false } ∧ t.ssp = s.ssp - 4#16 ∧
      t.g = s.g ∧ t.fp = s.fp ∧ t.usp = s.usp := by
  obtain ⟨hm, ha, hr1, hr2, handler, -, rfl⟩ := trapEntry_next h
  obtain ⟨hsaved, hflag, hframe, -⟩ := trapPushed_reads saved hm ha hr1 (by rwa [sub_four])
  exact ⟨hsaved, hflag, hframe, rfl, (sub_four s.ssp).symm, rfl, rfl, rfl⟩

/-- Settles O59: an instruction that does not store finishes with memory as it was, or takes an exception with the frame
of `trapEntry_effect`. -/
theorem onlyStoringInstructionsWriteMemory : Obligations.OnlyStoringInstructionsWriteMemory := by
  intro i s t hst hpush hcall h
  rcases exec_outcome h with h | h
  · left
    cases h with
    | quiet h => exact h.mem
    | stored m hi hkeep h =>
      rcases hi with ⟨rd, dst, rfl⟩ | ⟨rd, rfl⟩ | ⟨tgt, rfl⟩
      · exact absurd rfl (hst rd dst)
      · exact absurd rfl (hpush rd)
      · exact absurd rfl (hcall tgt)
    | wrotePort rd port p a v hi hp h => exact h.mem
  · right
    obtain ⟨vec, saved, m, h⟩ := trapEntry_of_raises h
    obtain ⟨-, -, hframe, hflag, hssp, -, -, -⟩ := trapEntry_effect (irq' := s.irq) (mmu' := m) h
    exact ⟨hflag, hssp, hframe⟩

/-! ### User mode (60_exceptions.md R240 to R242) -/

/-- The trap of each exception goes through one of the sixteen vectors, saves the PC of the instruction or the one after
it, and records a bad access at most. -/
theorem trap_of_raises {s t : State} (h : Raises s t) : ∃ (k : Fin 16) (saved : Word) (mmu' : Mmu),
    trapEntry (BitVec.ofNat 16 (0xFFE0 + 2 * k.val)) saved { s with mmu := mmu' } = .next t ∧
      (saved = s.pc ∨ saved = s.pc + 2#16) ∧
      (mmu' = s.mmu ∨ ∃ a, mmu' = { s.mmu with cause := 0x0002#16, violAddr := a }) := by
  obtain ⟨e, next, he, h⟩ := h
  cases he with
  | badAddr a next => exact ⟨11, s.pc, _, h, .inl rfl, .inr ⟨a, rfl⟩⟩
  | zeroDivision next => exact ⟨12, s.pc, _, h, .inl rfl, .inl rfl⟩
  | privilegeViolation next => exact ⟨13, s.pc, _, h, .inl rfl, .inl rfl⟩
  | svc => exact ⟨15, s.pc + 2#16, _, h, .inr rfl, .inl rfl⟩

/-- The trap of a request goes through one of the sixteen vectors. -/
theorem trap_of_interrupt {s t : State} {k : IntSource} (h : takeInterrupt k s = .next t) : ∃ j : Fin 16,
    trapEntry (BitVec.ofNat 16 (0xFFE0 + 2 * j.val)) s.pc { s with irq := clearRequest s.irq k } = .next t := by
  have hk : ∃ j : Fin 16, k.vector = BitVec.ofNat 16 (0xFFE0 + 2 * j.val) := by
    have hlt : k.index < 16 := by cases k <;> decide
    exact ⟨⟨k.index, hlt⟩, by cases k <;> rfl⟩
  obtain ⟨j, hj⟩ := hk
  exact ⟨j, by rw [← hj]; exact h⟩

theorem user_of_finishes {i : Instr} {s t : State} (hp : s.flag.p = false) (h : Finishes i s t) :
    t.flag.p = false ∧ t.flag.e = s.flag.e ∧ t.flag.i = s.flag.i ∧ t.ssp = s.ssp := by
  cases h with
  | quiet h => exact h.user hp
  | stored m hi hkeep h => exact h.user hp
  | wrotePort rd port p a v hi hwrite h => exact h.user hp

/-- Settles O57: an instruction that finishes keeps E, P, I and SSP in user mode (`user_of_finishes`); all else a step can
do is a trap entry (`trap_of_interrupt`, `trap_of_raises`), whose effect is `trapEntry_effect`. -/
theorem userModeIsLeftOnlyByTrapEntry : Obligations.UserModeIsLeftOnlyByTrapEntry := by
  intro s t hp h
  rcases step_outcome h with ⟨k, -, h⟩ | ⟨i, h⟩ | h
  · right
    obtain ⟨j, h⟩ := trap_of_interrupt h
    obtain ⟨hsaved, hold, -, hframe⟩ := trapEntry_effect h
    refine ⟨j, s.pc, clearRequest s.irq k, s.mmu, h, .inl rfl, fun n hn => ?_, .inl rfl, hsaved, hold, hframe⟩
    rw [getLsbD_clearRequest, Bool.and_eq_true] at hn
    exact hn.1
  · exact .inl (user_of_finishes hp h)
  · right
    obtain ⟨j, saved, mmu', h, hpc, hmmu⟩ := trap_of_raises h
    obtain ⟨hsaved, hold, -, hframe⟩ := trapEntry_effect h
    exact ⟨j, saved, s.irq, mmu', h, hpc, fun _ => id, hmmu, hsaved, hold, hframe⟩

end Sys2Proof.Machine

/-! Proofs about the I/O map, IN and OUT: which register a port reaches, what a read of it gives, and what a write of it
does to the machine. -/

namespace Sys2Proof.Machine

/-! ### The I/O map (60_exceptions.md R250) -/

theorem inTable_below : ∀ e ∈ inTable, e.1.toNat < 256 := by decide

theorem outTable_below : ∀ e ∈ outTable, e.1.toNat < 256 := by decide

/-- A port above every key of a table is not in it. -/
theorem lookup_eq_none_of_below {α : Type} {l : List (Word × α)} {a : Word} (hl : ∀ e ∈ l, e.1.toNat < 256)
    (ha : 256 ≤ a.toNat) : l.lookup a = none := by
  rw [List.lookup_eq_none_iff]
  intro e he
  have hlt := hl e he
  rw [bne_iff_ne]
  rintro rfl
  omega

theorem inTlbWindow_eq_false {a : Word} (ha : 256 ≤ a.toNat) : inTlbWindow a = false := by
  have hwindow : ¬ a.toNat / 32 = 4 := by omega
  simp [inTlbWindow, hwindow]

theorem inPort?_eq_none {a : Word} (ha : 256 ≤ a.toNat) : inPort? a = none := by
  simp [inPort?, inTlbWindow_eq_false ha, lookup_eq_none_of_below inTable_below ha]

theorem outPort?_eq_none {a : Word} (ha : 256 ≤ a.toNat) : outPort? a = none := by
  simp [outPort?, inTlbWindow_eq_false ha, lookup_eq_none_of_below outTable_below ha]

/-- A port number below 256 by its two hexadecimal digits. -/
theorem eq_ofNat_digits {a : Word} (ha : a.toNat < 256) : ∃ h < 16, ∃ l < 16, a = BitVec.ofNat 16 (16 * h + l) := by
  refine ⟨a.toNat / 16, by omega, a.toNat % 16, by omega, ?_⟩
  rw [Nat.div_add_mod, BitVec.ofNat_toNat, BitVec.setWidth_eq]

/-- The ports below 256 that IN reads, row by row of the map. -/
theorem inPort?_digits : ∀ h < 16, ∀ l < 16, ∀ n, n = (BitVec.ofNat 16 (16 * h + l)).toNat →
    ((inPort? (BitVec.ofNat 16 (16 * h + l))).isSome = true ↔ n % 2 = 0 ∧
      (n ≤ 0x18 ∨ (0x1E ≤ n ∧ n ≤ 0x38) ∨ (0x80 ≤ n ∧ n ≤ 0x9E) ∨ (0xA2 ≤ n ∧ n ≤ 0xA6) ∨ (0xF8 ≤ n ∧ n ≤ 0xFE))) := by
  simp only [forall_eq]
  decide

/-- The ports below 256 that OUT writes. -/
theorem outPort?_digits : ∀ h < 16, ∀ l < 16, ∀ n, n = (BitVec.ofNat 16 (16 * h + l)).toNat →
    ((outPort? (BitVec.ofNat 16 (16 * h + l))).isSome = true ↔ n % 2 = 0 ∧
      (n ≤ 0x1C ∨ (0x20 ≤ n ∧ n ≤ 0x2E) ∨ (0x32 ≤ n ∧ n ≤ 0x36) ∨ (0x80 ≤ n ∧ n ≤ 0xA0) ∨ n = 0xA2 ∨ n = 0xA8 ∨
        n = 0xF8)) := by
  simp only [forall_eq]
  decide

theorem inPort?_isSome_iff (a : Word) : (inPort? a).isSome = true ↔ a.toNat % 2 = 0 ∧
    (a.toNat ≤ 0x18 ∨ (0x1E ≤ a.toNat ∧ a.toNat ≤ 0x38) ∨ (0x80 ≤ a.toNat ∧ a.toNat ≤ 0x9E) ∨
      (0xA2 ≤ a.toNat ∧ a.toNat ≤ 0xA6) ∨ (0xF8 ≤ a.toNat ∧ a.toNat ≤ 0xFE)) := by
  by_cases ha : a.toNat < 256
  · obtain ⟨h, hh, l, hl, rfl⟩ := eq_ofNat_digits ha
    exact inPort?_digits h hh l hl _ rfl
  · rw [inPort?_eq_none (by omega), Option.isSome_none]
    exact ⟨nofun, fun _ => by omega⟩

theorem outPort?_isSome_iff (a : Word) : (outPort? a).isSome = true ↔ a.toNat % 2 = 0 ∧
    (a.toNat ≤ 0x1C ∨ (0x20 ≤ a.toNat ∧ a.toNat ≤ 0x2E) ∨ (0x32 ≤ a.toNat ∧ a.toNat ≤ 0x36) ∨
      (0x80 ≤ a.toNat ∧ a.toNat ≤ 0xA0) ∨ a.toNat = 0xA2 ∨ a.toNat = 0xA8 ∨ a.toNat = 0xF8) := by
  by_cases ha : a.toNat < 256
  · obtain ⟨h, hh, l, hl, rfl⟩ := eq_ofNat_digits ha
    exact outPort?_digits h hh l hl _ rfl
  · rw [outPort?_eq_none (by omega), Option.isSome_none]
    exact ⟨nofun, fun _ => by omega⟩

/-! ### IN and OUT where the mode allows them (44_io_stack.md R190, R191) -/

theorem exec_inp {rd : Reg} {port : PortOperand} {s : State} (h : s.flag.p = true ∨ s.flag.i = true) :
    exec (.inp rd port) s = complete s (s.pc + portSize port)
      ((ioRead s (portAddr s port)).bind fun r => .value ((r.2.writeReg rd r.1).setPc (s.pc + portSize port))) :=
  guarded_of_allowed _ ((allowed_inp rd port s).trans ((Bool.or_eq_true _ _).mpr h))

theorem exec_out {rd : Reg} {port : PortOperand} {s : State} (h : s.flag.p = true ∨ s.flag.i = true) :
    exec (.out rd port) s = complete s (s.pc + portSize port)
      ((ioWrite s (portAddr s port) (s.readReg rd)).bind fun t => .value (t.setPc (s.pc + portSize port))) :=
  guarded_of_allowed _ ((allowed_out rd port s).trans ((Bool.or_eq_true _ _).mpr h))

theorem size_inp (rd : Reg) (port : PortOperand) : (Instr.inp rd port).size = portSize port := size_port _ _ _

theorem size_out (rd : Reg) (port : PortOperand) : (Instr.out rd port).size = portSize port := size_port _ _ _

theorem ioRead_of_listed {s : State} {a : Word} {p : InPort} (h : inPort? a = some p) :
    ioRead s a = .value (readPort s p) := by
  simp [ioRead, h]

theorem ioRead_of_unlisted {s : State} {a : Word} (h : inPort? a = none) : ioRead s a = .refused (.unlistedPort a) := by
  simp [ioRead, h]

theorem ioWrite_of_unlisted {s : State} {a v : Word} (h : outPort? a = none) :
    ioWrite s a v = .refused (.unlistedPort a) := by
  simp [ioWrite, h]

theorem ioWrite_of_refusal {s : State} {a v : Word} {p : OutPort} {r : Refusal} (h : outPort? a = some p)
    (hr : outRefusal s p v = some r) : ioWrite s a v = .refused r := by
  simp [ioWrite, h, hr]

theorem ioWrite_of_admitted {s : State} {a v : Word} {p : OutPort} (h : outPort? a = some p)
    (hr : outRefusal s p v = none) : ioWrite s a v = .value { s with
      io := writeIo s.io p v
      mmu := writeMmu s.mmu p v
      iplAttached := writeIpl s.iplAttached p v
      outEvents := s.outEvents ++ [(a, v)] } := by
  simp [ioWrite, h, hr]

theorem exec_out_refused {rd : Reg} {port : PortOperand} {s : State} {p : OutPort} {r : Refusal}
    (h : s.flag.p = true ∨ s.flag.i = true) (hp : outPort? (portAddr s port) = some p)
    (hr : outRefusal s p (s.readReg rd) = some r) : exec (.out rd port) s = .refused r := by
  rw [exec_out h, ioWrite_of_refusal hp hr, bind_refused, complete_refused]

/-- Settles O39: the rows of the map by evaluation, the ports beside them by `inPort?_isSome_iff`. -/
theorem ioMapPorts : Obligations.IoMapPorts := by
  refine ⟨by decide, by decide, by decide, fun a => ⟨inPort?_isSome_iff a, outPort?_isSome_iff a⟩, ?_⟩
  rintro rd port s a h rfl
  refine ⟨fun hp => ?_, fun hp => ?_⟩
  · rw [exec_inp h, ioRead_of_unlisted hp, bind_refused, complete_refused]
  · rw [exec_out h, ioWrite_of_unlisted hp, bind_refused, complete_refused]

/-- Settles O40: the value of the port, written to Rd. -/
theorem inReadsThePort : Obligations.InReadsThePort := by
  intro rd port s p h hp
  rw [exec_inp h, ioRead_of_listed hp, bind_value, complete_value, size_inp]
  rfl

/-- Settles O42: the write of the port, then the PC. -/
theorem outWritesThePort : Obligations.OutWritesThePort := by
  rintro rd port s p v h rfl hp hr
  rw [exec_out h, ioWrite_of_admitted hp hr, bind_value, complete_value, size_out]
  rfl

/-- A write of A0h is admitted while the ROM is attached, and with bit 0 = 1 always (20_memory.md R53). -/
theorem outRefusal_iplDetach {s : State} {v : Word} (h : s.iplAttached = true ∨ v.getLsbD 0 = true) :
    outRefusal s .iplDetach v = none :=
  if_pos ((Bool.or_eq_true _ _).mpr h)

/-- Settles O43: A0h and A2h as ports of the map (`outWritesThePort`), with the writes they refuse. -/
theorem iplAndMmuSwitches : Obligations.IplAndMmuSwitches := by
  rintro rd port s a v size h rfl rfl rfl
  have hipl : portAddr s port = 0x00A0#16 → outPort? (portAddr s port) = some .iplDetach := fun ha => by rw [ha]; rfl
  have hmmu : portAddr s port = 0x00A2#16 → outPort? (portAddr s port) = some .mmuEnable := fun ha => by rw [ha]; rfl
  refine ⟨fun ha hv => ?_, fun ha hv hs => ?_, fun ha hv hs => ?_, fun ha hv => ?_, fun ha hv hs => ?_⟩
  · rw [outWritesThePort rd port s _ _ h rfl (hipl ha) (outRefusal_iplDetach (.inr hv))]
    simp only [writeIo, writeMmu, writeIpl, hv, Bool.not_true, Bool.and_false]
  · rw [outWritesThePort rd port s _ _ h rfl (hipl ha) (outRefusal_iplDetach (.inl hs))]
    simp only [writeIo, writeMmu, writeIpl, hv, Bool.not_false, Bool.and_true]
  · exact exec_out_refused h (hipl ha) (by simp only [outRefusal, hv, hs]; rfl)
  · exact exec_out_refused h (hmmu ha) (by simp only [outRefusal, hv]; rfl)
  · rw [outWritesThePort rd port s _ _ h rfl (hmmu ha) (by simp only [outRefusal, hv]; rfl)]
    have hoff : writeMmu s.mmu .mmuEnable (s.readReg rd) = s.mmu := by simp only [writeMmu, hv, ← hs]
    simp only [hoff, writeIo, writeIpl]

/-! ### What an IN reads (20_memory.md R60) -/

/-- Masking the low `n` bits of a word is its remainder by `2 ^ n`. -/
theorem and_lowBits (w : Word) {n : Nat} (hn : n ≤ 16) :
    w &&& BitVec.ofNat 16 (2 ^ n - 1) = BitVec.ofNat 16 (w.toNat % 2 ^ n) := by
  have hpow : 2 ^ n ≤ 2 ^ 16 := Nat.pow_le_pow_right (by decide) hn
  have hmask : (2 ^ n - 1) % 2 ^ 16 = 2 ^ n - 1 := Nat.mod_eq_of_lt (by omega)
  have hlt : w.toNat % 2 ^ n < 2 ^ 16 := Nat.lt_of_le_of_lt (Nat.mod_le _ _) w.isLt
  apply BitVec.eq_of_toNat_eq
  rw [BitVec.toNat_and, BitVec.toNat_ofNat, BitVec.toNat_ofNat, hmask, Nat.and_two_pow_sub_one_eq_mod,
    Nat.mod_eq_of_lt hlt]

theorem readRn4020Cmd_initial {s : State} (h : s.io.rn4020CmdInitial = true) :
    readRn4020Cmd s = (s.io.rn4020Cmd.setWidth 16, s.setIo { s.io with rn4020CmdInitial := false }) := by
  simp [readRn4020Cmd, h]

theorem readRn4020Cmd_later {s : State} (h : s.io.rn4020CmdInitial = false) :
    readRn4020Cmd s = (s.nextFree &&& 0x000F#16, s.tookDraw) := by
  simp [readRn4020Cmd, h]

/-- Settles O41: each port by `readPort`, with the masks of the MMU's registers as remainders (`and_lowBits`). -/
theorem portReadValues : Obligations.PortReadValues := by
  rintro s drawn w rfl rfl
  refine ⟨?_, ?_, rfl, rfl, rfl, rfl, readRn4020Cmd_initial, readRn4020Cmd_later, rfl, rfl, ?_, rfl, ?_,
    ?_, fun k => ⟨rfl, rfl⟩⟩
  · simp only [List.forall_mem_cons]
    exact ⟨⟨_, rfl, rfl⟩, ⟨_, rfl, rfl⟩, ⟨_, rfl, rfl⟩, ⟨_, rfl, rfl⟩, ⟨_, rfl, rfl⟩, ⟨_, rfl, rfl⟩, ⟨_, rfl, rfl⟩,
      ⟨_, rfl, rfl⟩, ⟨_, rfl, rfl⟩, ⟨_, rfl, rfl⟩, ⟨_, rfl, rfl⟩, ⟨_, rfl, rfl⟩, ⟨_, rfl, rfl⟩, ⟨_, rfl, rfl⟩,
      ⟨_, rfl, rfl⟩, ⟨_, rfl, rfl⟩, ⟨_, rfl, rfl⟩, ⟨_, rfl, rfl⟩, ⟨_, rfl, rfl⟩, ⟨_, rfl, rfl⟩, ⟨_, rfl, rfl⟩,
      ⟨_, rfl, rfl⟩, nofun⟩
  · simp only [List.forall_mem_cons]
    exact ⟨⟨_, rfl, rfl⟩, ⟨_, rfl, rfl⟩, ⟨_, rfl, rfl⟩, nofun⟩
  · rw [readPort, setWidth_byte]
  · exact congrArg (·, s) (and_lowBits s.mmu.cause (n := 2) (by decide))
  · exact congrArg (·, s) (and_lowBits s.mmu.page (n := 8) (by decide))

end Sys2Proof.Machine

/-! Proofs about the device registers: what an OUT leaves in the register it reaches, the interrupt enables, and the
entries of the TLB. -/

namespace Sys2Proof.Machine

/-! ### What an OUT leaves in the I/O registers and the MMU (60_exceptions.md R251) -/

/-- The low bits of a word, as the model takes them and as the fields of a register name them. -/
theorem setWidth_eq_extractLsb' (v : Word) (n : Nat) : v.setWidth n = v.extractLsb' 0 n := by
  apply BitVec.eq_of_toNat_eq
  rw [BitVec.toNat_setWidth, BitVec.extractLsb'_toNat, Nat.shiftRight_zero]

/-- The ports of the MMU and of the overlay leave the I/O registers alone. -/
theorem writeIo_of_other {p : OutPort}
    (hp : p ∈ [.iplDetach, .mmuEnable, .mmuPageTable] ∨ ∃ k, p = .tlbHigh k ∨ p = .tlbLow k) (io : Io) (v : Word) :
    writeIo io p v = io := by
  simp only [List.mem_cons, List.not_mem_nil, or_false] at hp
  rcases hp with (rfl | rfl | rfl) | ⟨k, rfl | rfl⟩ <;> rfl

/-- The ports of the devices and of the overlay leave the MMU alone. -/
theorem writeMmu_of_other {p : OutPort} (htlb : ∀ k, p ≠ .tlbHigh k ∧ p ≠ .tlbLow k) (hpage : p ≠ .mmuPageTable)
    (henable : p ≠ .mmuEnable) (m : Mmu) (v : Word) : writeMmu m p v = m := by
  cases p with
  | tlbHigh k => exact absurd rfl (htlb k).1
  | tlbLow k => exact absurd rfl (htlb k).2
  | mmuPageTable => exact absurd rfl hpage
  | mmuEnable => exact absurd rfl henable
  | _ => rfl

theorem writeIpl_of_other {p : OutPort} (hp : p ≠ .iplDetach) (attached : Bool) (v : Word) :
    writeIpl attached p v = attached := by
  cases p with
  | iplDetach => exact absurd rfl hp
  | _ => rfl

/-- Settles O60: each port by `writeIo` and `writeMmu`, the low bits written as the fields they are. -/
theorem outSetsTheRegisterItReaches : Obligations.OutSetsTheRegisterItReaches := by
  rintro io m v b rfl
  simp only [← setWidth_eq_extractLsb']
  refine ⟨rfl, rfl, rfl, rfl, rfl, rfl, rfl, rfl, rfl, rfl, rfl, rfl, rfl, rfl, rfl, rfl, rfl, rfl, rfl, rfl, rfl, rfl,
    rfl, rfl, rfl, rfl, rfl, rfl, fun p hp => writeIo_of_other hp io v, fun k => ?_,
    fun p htlb hpage henable => writeMmu_of_other htlb hpage henable m v,
    fun p attached hp => writeIpl_of_other hp attached v, fun s => setWidth_byte _⟩
  simp only [setWidth_eq_extractLsb']
  exact ⟨rfl, rfl⟩

/-! ### The interrupt enables (60_exceptions.md R214) -/

/-- A write of any port but the seven control ports leaves every enable. -/
theorem intEnable_writeIo_of_other {p : OutPort} (htimer : ∀ t, p ≠ .timerControl t) (hserial : ∀ u, p ≠ .serialCtrl u)
    (husd : p ≠ .usdCtrl) (hmask : p ≠ .pioMask) (io : Io) (v : Word) (k : IntSource) :
    (writeIo io p v).intEnable k = io.intEnable k := by
  cases p with
  | timerControl t => exact absurd rfl (htimer t)
  | serialCtrl u => exact absurd rfl (hserial u)
  | usdCtrl => exact absurd rfl husd
  | pioMask => exact absurd rfl hmask
  | timerPeriod t => cases t <;> cases k <;> rfl
  | serialData u => cases u <;> cases k <;> rfl
  | _ => rfl

/-- An instruction other than OUT leaves every enable, whether it finishes or takes an exception. -/
theorem intEnable_of_outcome {i : Instr} {s t : State} (hi : ∀ rd port, i ≠ .out rd port) (h : Outcome i s t)
    (k : IntSource) : t.io.intEnable k = s.io.intEnable k := by
  rcases h with h | h
  · cases h with
    | quiet h => exact h.enables k
    | stored m hst hwf h => exact h.enables k
    | wrotePort rd port p a v hout hp h => exact absurd hout (hi rd port)
  · obtain ⟨vec, saved, m, h⟩ := trapEntry_of_raises h
    obtain ⟨-, -, -, -, -, hio⟩ := trapEntry_leaves h
    rw [hio]
    rfl

/-- Settles O44: the control ports by cases on the source, the other instructions by `exec_outcome`. -/
theorem interruptEnablesFollowControlPorts : Obligations.InterruptEnablesFollowControlPorts := by
  refine ⟨by decide, fun io v k s => ?_⟩
  refine ⟨by cases k <;> rfl, by cases k <;> rfl, by cases k <;> rfl, by cases k <;> rfl, by cases k <;> rfl,
    by cases k <;> rfl, ?_, fun p ht hu husd hmask => intEnable_writeIo_of_other ht hu husd hmask io v k,
    fun i t hi h => intEnable_of_outcome hi (exec_outcome h) k, fun hk => ?_, fun hk => ?_⟩
  · rw [← setWidth_eq_extractLsb']
    cases k <;> rfl
  · simp [hostMove_raiseRequest, hk]
  · exact ⟨setRequest s.irq k, getLsbD_setRequest s.irq k, by rw [hostMove_raiseRequest, if_pos hk]; rfl⟩

/-! ### The entries of the TLB (20_memory.md R64, R65) -/

/-- The fields of the lower word of an entry, with the width of each written out. -/
theorem lowWord_eq_cast (t : TlbEntry) (free : BitVec 2) : t.lowWord free = BitVec.cast rfl
    (BitVec.ofBool t.valid ++ free ++ BitVec.ofBool t.reference ++ BitVec.ofBool t.dirty ++ BitVec.ofBool t.canRead ++
      BitVec.ofBool t.canWrite ++ BitVec.ofBool t.canExecute ++ t.frame) := rfl

/-- FRAME is taken from the word written, not from the free bits. -/
theorem lowWord_masks : ∀ i < 8, (0x9FFF#16).getLsbD i = true ∧ (0x6000#16).getLsbD i = false := by decide

/-- The lower word of an entry reads back, its undefined bits 14 and 13 free. -/
theorem lowWord_setLow (t : TlbEntry) (lo w : Word) :
    (t.setLow lo).lowWord (w.extractLsb' 13 2) = (lo &&& 0x9FFF#16) ||| (w &&& 0x6000#16) := by
  apply BitVec.eq_of_getLsbD_eq
  intro i hi
  simp only [lowWord_eq_cast, BitVec.getLsbD_cast, BitVec.getLsbD_append]
  by_cases hlow : i < 8
  · obtain ⟨hfield, hfree⟩ := lowWord_masks i hlow
    simp [TlbEntry.setLow, hlow, hfield, hfree]
  · have hcases : i = 8 ∨ i = 9 ∨ i = 10 ∨ i = 11 ∨ i = 12 ∨ i = 13 ∨ i = 14 ∨ i = 15 := by omega
    rcases hcases with rfl | rfl | rfl | rfl | rfl | rfl | rfl | rfl
    all_goals simp [TlbEntry.setLow]

/-- Settles O45: the two writes by definition, the reading back of the lower word by `lowWord_setLow`. -/
theorem tlbEntryReadsBack : Obligations.TlbEntryReadsBack := by
  intro s k j hi lo m m'
  refine ⟨rfl, rfl, ?_⟩
  rintro rfl
  refine ⟨?_, ?_, fun hjk => ?_⟩
  · simp [readPort, writeMmu, TlbEntry.highWord, TlbEntry.setHigh, TlbEntry.setLow]
  · have h := lowWord_setLow (m.tlb[k].setHigh hi) lo (Config.freeWord s.draws)
    simpa [readPort, writeMmu, State.nextFree] using h
  · have hne : k.val ≠ j.val := fun h => hjk (Fin.ext h.symm)
    simp [writeMmu, hne]

end Sys2Proof.Machine
